-- ==== Sys2Proof/Word.lean ====
section
/-! DEFINITION. The widths of the block's values: `BYTE` and `TXN_W` are 8 bits, `CRC_W` is 16, the two
longest frame fields are 32 bits, and the packed nibbles of an extended point are 4 (spec/00_scope.md R8, R9). -/

namespace Sys2Proof

/-- `u8`: one byte of a frame, a transaction ID, an opaque code. -/
abbrev Byte := BitVec 8

/-- `u16`: a CRC value or a 16-bit frame field. -/
abbrev Half := BitVec 16

/-- `u32`: uptimeSeconds and serialNumber. -/
abbrev Long := BitVec 32

/-- `u4`: range and radius of an extended point. -/
abbrev Nibble := BitVec 4

end Sys2Proof
end

