-- ==== Sys2Proof/Config.lean ====
section
/-! DEFINITION. What an implementation fixes: the parameters of spec/00_scope.md R8 that the spec leaves OPEN, and the
free values. Parameters the spec fixes (`CRC_POLY`, frame sizes, `CHUNK_MAX`, ...) stand where they are used. -/

namespace Sys2Proof

/-- `SET_MODE_LEN`: 7 total bytes by decision, 6 the OPEN alternative (R8, D7). -/
inductive SetModeLen where
  | seven
  | six
deriving DecidableEq, Repr

/-- `WAIT_CHECK_ORDER` (R160, D29): which of the two tests of a wait comes first. -/
inductive CheckOrder where
  | nackFirst
  | ackFirst
deriving DecidableEq, Repr

/-- cameraStatus names of R131. -/
inductive CamStatus where
  | notPresent
  | notInitialized
  | selfTestFailed
  | readyToUse
deriving DecidableEq, Repr

/-- cameraMode names of R131. -/
inductive CamMode where
  | idle
  | coordinate
deriving DecidableEq, Repr

/-- LED states of R75. -/
inductive LedState where
  | off
  | solid
  | blink
deriving DecidableEq, Repr

/-- The OPEN parameters of R8 the block's behaviour depends on. STATUS has no field: its kind ID 0x02 is given.
The configuration is fixed for the life of a run (R56); `State` carries it as plain data and no step changes it
(DESIGN CHOICE, notes/assumptions/1.md). -/
structure Config where
  /-- `KIND_ID(DEVICE_INFO)` -/
  idDeviceInfo : Byte
  /-- `KIND_ID(COORDINATE)` -/
  idCoordinate : Byte
  /-- `KIND_ID(EXTENDED_COORDINATES)` -/
  idExtendedCoordinates : Byte
  /-- `KIND_ID(ACK)` -/
  idAck : Byte
  /-- `KIND_ID(NACK)` -/
  idNack : Byte
  /-- `KIND_ID(GET_STATUS)` -/
  idGetStatus : Byte
  /-- `KIND_ID(GET_DEVICE_INFO)` -/
  idGetDeviceInfo : Byte
  /-- `KIND_ID(SET_MODE)` -/
  idSetMode : Byte
  /-- `KIND_ID(SET_REGISTER)` -/
  idSetRegister : Byte
  /-- `KIND_ID(SET_REGISTER_GROUP)` -/
  idSetRegisterGroup : Byte
  /-- `KIND_ID(SET_LEDS)` -/
  idSetLeds : Byte
  /-- `KIND_ID(RESET_BOOTLOADER)` -/
  idResetBootloader : Byte
  /-- `BUF_CAP` -/
  bufCap : Nat
  /-- `SET_MODE_LEN` -/
  setModeLen : SetModeLen
  /-- `TXN_CTR_INIT` -/
  txnCtrInit : Byte
  /-- `WAIT_CHECK_ORDER` -/
  waitCheckOrder : CheckOrder
deriving DecidableEq, Repr

/-- The test-only configuration of spec/95_test_vectors.md section 0. It is not the device's assignment
(DESIGN CHOICE, notes/assumptions/2.md): `State.reset` uses it so that the machine can be run from reset. -/
def Config.testConfig : Config where
  idDeviceInfo := 0x12
  idCoordinate := 0x13
  idExtendedCoordinates := 0x14
  idAck := 0x10
  idNack := 0x11
  idGetStatus := 0x20
  idGetDeviceInfo := 0x21
  idSetMode := 0x22
  idSetRegister := 0x23
  idSetRegisterGroup := 0x24
  idSetLeds := 0x25
  idResetBootloader := 0x26
  bufCap := 517
  setModeLen := .seven
  txnCtrInit := 0x00
  waitCheckOrder := .nackFirst

/-- FREE VALUE. How long a waiter that no schedule moves goes on before it times out (R161, I9): of the DECIDE draws that no turn
names, `freePatience k` go on between the k-th Timeout and the next. So these draws are any sequence that does not go on for ever,
which is what R161 admits (notes/assumptions/3.md). -/
opaque Config.freePatience : Nat → Nat

/-- FREE VALUE. `CAM_STATUS_*`: the numeric codes of the cameraStatus names (R131, I5; notes/assumptions/9.md). -/
opaque Config.camStatusCode : CamStatus → Byte

/-- FREE VALUE. `CAM_MODE_*`: the numeric codes of the cameraMode names (R131, I5; notes/assumptions/9.md). -/
opaque Config.camModeCode : CamMode → Byte

/-- FREE VALUE. `LED_*`: the LED state codes (R75, I7; notes/assumptions/9.md). -/
opaque Config.ledCode : LedState → Byte

end Sys2Proof
end

