-- ==== Sys2Proof/Syntax.lean ====
section
/-! DEFINITION. Frame kinds, the records inside frames, and `Instr`: one constructor per row of spec/opcode_table.json
(thirteen frame kinds, spec/30_encoding.md R60; twelve port operations, R80). -/

namespace Sys2Proof

/-- The six kinds the device sends and the synchronizer recognizes (R60, R64). -/
inductive InKind where
  | status
  | deviceInfo
  | coordinate
  | extendedCoordinates
  | ack
  | nack
deriving DecidableEq, Repr

/-- The seven kinds the host sends (R60). -/
inductive OutKind where
  | getStatus
  | getDeviceInfo
  | setMode
  | setRegister
  | setRegisterGroup
  | setLeds
  | resetBootloader
deriving DecidableEq, Repr

/-- The thirteen frame kinds with their direction (R60). -/
inductive Kind where
  | inbound (k : InKind)
  | outbound (k : OutKind)
deriving DecidableEq, Repr

/-- One 5-byte point record of a COORDINATE frame (R67). -/
structure Point where
  x : Half
  y : Half
  brightness : Byte
deriving DecidableEq, Repr

/-- One 16-byte raw record of an EXTENDED_COORDINATES frame (R68); the coordinates are the 16 raw bits. -/
structure ExtRecord where
  area : Half
  rawX : Half
  rawY : Half
  averageBrightness : Byte
  maximumBrightness : Byte
  range : Nibble
  radius : Nibble
  boundary0 : Byte
  boundary1 : Byte
  boundary2 : Byte
  boundary3 : Byte
  aspectRatio : Byte
  vx : Byte
  vy : Byte
deriving DecidableEq, Repr

/-- One (bank, address, value) triple of SET_REGISTER_GROUP (R74). -/
structure RegTriple where
  bank : Byte
  address : Byte
  value : Byte
deriving DecidableEq, Repr

/-- The instruction set. An outbound kind is its builder: the payload fields and the size `cap` of the host's buffer
(R152, R163 to R169); its txid and CRC are outputs of the assembly (`Stamp` in Decode.lean). An inbound kind is the frame at
the front of the receive buffer with every field of its layout, the CRC field among them (R65 to R70). A port operation
has its operands of R80 and no binary encoding (D2). -/
inductive Instr where
  /-- GET_STATUS, R163 -/
  | getStatus (cap : Nat)
  /-- GET_DEVICE_INFO, R164 -/
  | getDeviceInfo (cap : Nat)
  /-- SET_MODE, R165: the payload is opaque bytes -/
  | setMode (payload : List Byte) (cap : Nat)
  /-- SET_REGISTER, R166 -/
  | setRegister (bank address value : Byte) (cap : Nat)
  /-- SET_REGISTER_GROUP, R167 -/
  | setRegisterGroup (triples : List RegTriple) (cap : Nat)
  /-- SET_LEDS, R168 -/
  | setLeds (red green blue : Byte) (cap : Nat)
  /-- RESET_BOOTLOADER, R169 -/
  | resetBootloader (mode : Byte) (cap : Nat)
  /-- STATUS, R131 -/
  | status (txid cameraStatus cameraMode : Byte) (uptimeSeconds : Long) (crc : Half)
  /-- DEVICE_INFO, R132 -/
  | deviceInfo (txid hardwareVersion softwareVersionMajor softwareVersionMinor : Byte) (serialNumber : Long) (crc : Half)
  /-- COORDINATE, R133 -/
  | coordinate (points : Vector Point 16) (crc : Half)
  /-- EXTENDED_COORDINATES, R134 -/
  | extendedCoordinates (records : Vector ExtRecord 16) (crc : Half)
  /-- ACK, R135 -/
  | ack (txid : Byte) (crc : Half)
  /-- NACK, R136 -/
  | nack (txid reason : Byte) (crc : Half)
  /-- CRC_COMPUTE B, n (R100) -/
  | crcCompute (B : List Byte) (n : Nat)
  /-- CRC_APPEND B, n, cap (R102) -/
  | crcAppend (B : List Byte) (n cap : Nat)
  /-- CRC_CHECK B, n (R103) -/
  | crcCheck (B : List Byte) (n : Nat)
  /-- RX_PUSH C (R112) -/
  | rxPush (C : List Byte)
  /-- PARSE_STEP (R113) -/
  | parseStep
  /-- FLUSH (R121) -/
  | flush
  /-- TXN_ALLOC (R150) -/
  | txnAlloc
  /-- TX_ASSEMBLE k, P, cap (R152) -/
  | txAssemble (k : Kind) (P : List Byte) (cap : Nat)
  /-- TXN_WAIT T (R157) -/
  | txnWait (T : Byte)
  /-- READ_REGS (R30) -/
  | readRegs
  /-- SESSION_INIT (R201) -/
  | sessionInit
  /-- RESET (R200) -/
  | reset
deriving DecidableEq, Repr

/-- What a consumer reads from a STATUS frame (R131). -/
structure StatusInfo where
  txid : Byte
  cameraStatus : Byte
  cameraMode : Byte
  uptimeSeconds : Long
deriving DecidableEq, Repr

/-- What a consumer reads from a DEVICE_INFO frame (R132). -/
structure DeviceInfo where
  txid : Byte
  hardwareVersion : Byte
  softwareVersionMajor : Byte
  softwareVersionMinor : Byte
  serialNumber : Long
deriving DecidableEq, Repr

/-- What a consumer reads from one slot of a COORDINATE frame (R133). -/
structure PointInfo where
  x : Half
  y : Half
  brightness : Byte
  detected : Bool
deriving DecidableEq, Repr

/-- What a consumer reads from one slot of an EXTENDED_COORDINATES frame (R134); the coordinates are the masked ones. -/
structure ExtPointInfo where
  area : Half
  coordinateX : Half
  coordinateY : Half
  averageBrightness : Byte
  maximumBrightness : Byte
  range : Nibble
  radius : Nibble
  boundary : List Byte
  aspectRatio : Byte
  vx : Byte
  vy : Byte
deriving DecidableEq, Repr

end Sys2Proof
end

