-- ==== Sys2Proof/Decode.lean ====
section
/-! DEFINITION. Byte order, kind IDs and sizes, framing (which bytes at the front of a byte list are one frame), the decoder
of the thirteen frame kinds from bytes, and the encoder (spec/30_encoding.md). Decoding reads the layout only: the CRC
field is an operand, and whether it is valid is tested when the frame runs (R117, R118). -/

namespace Sys2Proof

/-! ### Byte lists and byte order (R10, R11, R42) -/

/-- `B[i]` (R10). -/
def byteAt (B : List Byte) (i : Nat) : Byte := B.getD i 0

/-- `be16(b0, b1)` (R11). -/
def be16 (b0 b1 : Byte) : Half := b0 ++ b1

/-- `be32(b0, b1, b2, b3)` (R11). -/
def be32 (b0 b1 b2 b3 : Byte) : Long := be16 b0 b1 ++ be16 b2 b3

/-- `hi8(v)` (R11). -/
def hi8 (v : Half) : Byte := v.extractLsb' 8 8

/-- `lo8(v)` (R11). -/
def lo8 (v : Half) : Byte := v.extractLsb' 0 8

/-- The two bytes of a 16-bit field, the more significant at the lower index (R42). -/
def bytes16 (v : Half) : List Byte := [hi8 v, lo8 v]

/-- The four bytes of a 32-bit field, big-endian (R42). -/
def bytes32 (v : Long) : List Byte := bytes16 (v.extractLsb' 16 16) ++ bytes16 (v.extractLsb' 0 16)

/-- `byte[7:4]` (R79). -/
def highNibble (b : Byte) : Nibble := b.extractLsb' 4 4

/-- `byte[3:0]` (R79). -/
def lowNibble (b : Byte) : Nibble := b.extractLsb' 0 4

/-- `EXT_COORD_MASK`: the low 14 bits are kept (R79, D10). -/
def extCoordMask : Half := 0x3FFF

/-! ### Kinds, kind IDs and sizes (R60 to R64) -/

/-- The six inbound kinds, in the table's order. -/
def InKind.all : List InKind := [.status, .deviceInfo, .coordinate, .extendedCoordinates, .ack, .nack]

/-- The seven outbound kinds, in the table's order. -/
def OutKind.all : List OutKind :=
  [.getStatus, .getDeviceInfo, .setMode, .setRegister, .setRegisterGroup, .setLeds, .resetBootloader]

/-- `KIND_ID(k)` of an inbound kind; 0x02 for STATUS is the one the source gives (R61). -/
def Config.inboundId (c : Config) : InKind → Byte
  | .status => 0x02
  | .deviceInfo => c.idDeviceInfo
  | .coordinate => c.idCoordinate
  | .extendedCoordinates => c.idExtendedCoordinates
  | .ack => c.idAck
  | .nack => c.idNack

/-- `KIND_ID(k)` of an outbound kind (R61). -/
def Config.outboundId (c : Config) : OutKind → Byte
  | .getStatus => c.idGetStatus
  | .getDeviceInfo => c.idGetDeviceInfo
  | .setMode => c.idSetMode
  | .setRegister => c.idSetRegister
  | .setRegisterGroup => c.idSetRegisterGroup
  | .setLeds => c.idSetLeds
  | .resetBootloader => c.idResetBootloader

/-- `KIND_ID(k)` (R61). -/
def Config.kindId (c : Config) : Kind → Byte
  | .inbound k => c.inboundId k
  | .outbound k => c.outboundId k

/-- A well-formed configuration: the six inbound kind IDs are distinct (R61, R111 a). The sizes of R111 b are fixed below. -/
def Config.valid (c : Config) : Bool := (InKind.all.map c.inboundId).Nodup

/-- `kind_of(b)`: the recognized kind whose ID is b, if any (R64). -/
def Config.kindOf (c : Config) (b : Byte) : Option InKind := InKind.all.find? fun k => c.inboundId k == b

/-- The outbound kind whose ID is b, the first in the table's order if several share it (DESIGN CHOICE,
notes/assumptions/10.md: the block itself never parses an outbound frame, R81). -/
def Config.outKindOf (c : Config) (b : Byte) : Option OutKind := OutKind.all.find? fun k => c.outboundId k == b

/-- `FRAME_SIZE(k)` of an inbound kind (R62). -/
def inboundSize : InKind → Nat
  | .status => 10
  | .deviceInfo => 11
  | .coordinate => 83
  | .extendedCoordinates => 259
  | .ack => 4
  | .nack => 5

/-- `SET_MODE_LEN` as a number of bytes (R62, C3). -/
def SetModeLen.bytes : SetModeLen → Nat
  | .seven => 7
  | .six => 6

/-- `FRAME_SIZE(k)` of an outbound kind; N is the number of triples, read by SET_REGISTER_GROUP only (R62). -/
def Config.outboundSize (c : Config) (N : Nat) : OutKind → Nat
  | .getStatus => 4
  | .getDeviceInfo => 4
  | .setMode => c.setModeLen.bytes
  | .setRegister => 7
  | .setRegisterGroup => 3 + 3 * N + 2
  | .setLeds => 7
  | .resetBootloader => 5

/-- `MAX_FRAME` (R62). -/
def maxFrame : Nat := 259

/-- `CHUNK_MAX` (R8). -/
def chunkMax : Nat := 259

/-- `GROUP_MAX` (R8). -/
def groupMax : Nat := 19

/-- Whether a kind's layout has a transaction-ID byte (R60, R63, C1). -/
def Kind.hasTxid : Kind → Bool
  | .inbound .coordinate => false
  | .inbound .extendedCoordinates => false
  | _ => true

/-! ### Framing (R81, R113) -/

/-- What stands at the front of a byte list, by the tests of R113 up to the CRC. -/
inductive Front where
  /-- no byte at all -/
  | empty
  /-- the first byte is no recognized ID -/
  | unrecognized
  /-- the first byte is the ID of k, and fewer than FRAME_SIZE(k) bytes are there -/
  | incomplete (k : InKind)
  /-- the first FRAME_SIZE(k) bytes are a window of kind k, its CRC not yet tested -/
  | complete (k : InKind)
deriving DecidableEq, Repr

/-- The first three tests of R113, in their order. -/
def front (c : Config) (B : List Byte) : Front :=
  match B with
  | [] => .empty
  | b :: _ =>
    match c.kindOf b with
    | none => .unrecognized
    | some k => if B.length < inboundSize k then .incomplete k else .complete k

/-! ### Record layouts (R67, R68, R74) -/

/-- A point record from its five bytes (R67). -/
def pointOf (B : List Byte) : Point where
  x := be16 (byteAt B 0) (byteAt B 1)
  y := be16 (byteAt B 2) (byteAt B 3)
  brightness := byteAt B 4

/-- The five bytes of a point record (R67). -/
def Point.bytes (p : Point) : List Byte := bytes16 p.x ++ bytes16 p.y ++ [p.brightness]

/-- A raw extended record from its sixteen bytes (R68); range and radius are byte 8's nibbles (R79). -/
def extRecordOf (B : List Byte) : ExtRecord where
  area := be16 (byteAt B 0) (byteAt B 1)
  rawX := be16 (byteAt B 2) (byteAt B 3)
  rawY := be16 (byteAt B 4) (byteAt B 5)
  averageBrightness := byteAt B 6
  maximumBrightness := byteAt B 7
  range := highNibble (byteAt B 8)
  radius := lowNibble (byteAt B 8)
  boundary0 := byteAt B 9
  boundary1 := byteAt B 10
  boundary2 := byteAt B 11
  boundary3 := byteAt B 12
  aspectRatio := byteAt B 13
  vx := byteAt B 14
  vy := byteAt B 15

/-- The sixteen bytes of a raw extended record (R68). -/
def ExtRecord.bytes (r : ExtRecord) : List Byte :=
  bytes16 r.area ++ bytes16 r.rawX ++ bytes16 r.rawY ++
    [r.averageBrightness, r.maximumBrightness, (r.range ++ r.radius : BitVec 8),
     r.boundary0, r.boundary1, r.boundary2, r.boundary3, r.aspectRatio, r.vx, r.vy]

/-- A register triple from its three bytes (R74). -/
def tripleOf (B : List Byte) : RegTriple where
  bank := byteAt B 0
  address := byteAt B 1
  value := byteAt B 2

/-- The three bytes of a register triple (R74). -/
def RegTriple.bytes (t : RegTriple) : List Byte := [t.bank, t.address, t.value]

/-- n consecutive records of w bytes each, read by `rd`. -/
def recordsOf {α : Type} (rd : List Byte → α) (w : Nat) : Nat → List Byte → List α
  | 0, _ => []
  | n + 1, B => rd (B.take w) :: recordsOf rd w n (B.drop w)

theorem recordsOf_length {α : Type} (rd : List Byte → α) (w n : Nat) (B : List Byte) :
    (recordsOf rd w n B).length = n := by
  induction n generalizing B with
  | zero => rfl
  | succ n ih => simp [recordsOf, ih]

/-- Exactly n records, as a fixed-size collection. -/
def recordVec {α : Type} (rd : List Byte → α) (w n : Nat) (B : List Byte) : Vector α n :=
  ⟨⟨recordsOf rd w n B⟩, recordsOf_length rd w n B⟩

/-- The bytes of a list of records, in slot order. -/
def recordBytes {α : Type} (wr : α → List Byte) : List α → List Byte
  | [] => []
  | r :: rs => wr r ++ recordBytes wr rs

/-! ### Decoding -/

/-- Why bytes are no frame. -/
inductive DecodeError where
  /-- no byte -/
  | empty
  /-- the first byte is the ID of no kind (R82) -/
  | unassignedId
  /-- the kind is known and bytes are missing -/
  | incomplete
  /-- a SET_REGISTER_GROUP count above `GROUP_MAX` (R167) -/
  | groupCount
deriving DecidableEq, Repr

/-- The two fields of an outbound frame that the assembler computes (R152): the txid and the CRC. -/
structure Stamp where
  txid : Byte
  crc : Half
deriving DecidableEq, Repr

/-- What the decoder reads: the instruction, an outbound frame's stamp, and the bytes after the frame. -/
structure Decoded where
  instr : Instr
  stamp : Option Stamp
  rest : List Byte
deriving DecidableEq, Repr

/-- The fields of a window F of inbound kind k, by the layouts R65 to R70. -/
def inboundFields (k : InKind) (F : List Byte) : Instr :=
  match k with
  | .status =>
    .status (byteAt F 1) (byteAt F 2) (byteAt F 3)
      (be32 (byteAt F 4) (byteAt F 5) (byteAt F 6) (byteAt F 7)) (be16 (byteAt F 8) (byteAt F 9))
  | .deviceInfo =>
    .deviceInfo (byteAt F 1) (byteAt F 2) (byteAt F 3) (byteAt F 4)
      (be32 (byteAt F 5) (byteAt F 6) (byteAt F 7) (byteAt F 8)) (be16 (byteAt F 9) (byteAt F 10))
  | .coordinate =>
    .coordinate (recordVec pointOf 5 16 (F.drop 1)) (be16 (byteAt F 81) (byteAt F 82))
  | .extendedCoordinates =>
    .extendedCoordinates (recordVec extRecordOf 16 16 (F.drop 1)) (be16 (byteAt F 257) (byteAt F 258))
  | .ack => .ack (byteAt F 1) (be16 (byteAt F 2) (byteAt F 3))
  | .nack => .nack (byteAt F 1) (byteAt F 2) (be16 (byteAt F 3) (byteAt F 4))

/-- The payload fields of an outbound frame F of kind k with n bytes in all, by the layouts R71 to R76. The host buffer is
taken to be the frame's own size: the frame does not say how large the buffer was (notes/assumptions/10.md). -/
def outboundFields (k : OutKind) (F : List Byte) (n : Nat) : Instr :=
  match k with
  | .getStatus => .getStatus n
  | .getDeviceInfo => .getDeviceInfo n
  | .setMode => .setMode ((F.drop 2).take (n - 4)) n
  | .setRegister => .setRegister (byteAt F 2) (byteAt F 3) (byteAt F 4) n
  | .setRegisterGroup => .setRegisterGroup (recordsOf tripleOf 3 (byteAt F 2).toNat (F.drop 3)) n
  | .setLeds => .setLeds (byteAt F 2) (byteAt F 3) (byteAt F 4) n
  | .resetBootloader => .resetBootloader (byteAt F 2) n

/-- The stamp of an outbound frame F of n bytes. -/
def stampOf (F : List Byte) (n : Nat) : Stamp := ⟨byteAt F 1, be16 (byteAt F (n - 2)) (byteAt F (n - 1))⟩

/-- A window of the synchronizer's kinds at the front of B. -/
def decodeInbound (c : Config) (B : List Byte) : Except DecodeError Decoded :=
  match front c B with
  | .empty => .error .empty
  | .unrecognized => .error .unassignedId
  | .incomplete _ => .error .incomplete
  | .complete k => .ok ⟨inboundFields k (B.take (inboundSize k)), none, B.drop (inboundSize k)⟩

/-- An outbound frame at the front of B. A SET_REGISTER_GROUP frame's length follows from its count byte (R74, R81). -/
def decodeOutbound (c : Config) (B : List Byte) : Except DecodeError Decoded :=
  match B with
  | [] => .error .empty
  | b :: _ =>
    match c.outKindOf b with
    | none => .error .unassignedId
    | some k =>
      let n := c.outboundSize (byteAt B 2).toNat k
      if k = .setRegisterGroup ∧ B.length < 3 then .error .incomplete
      else if k = .setRegisterGroup ∧ groupMax < (byteAt B 2).toNat then .error .groupCount
      else if B.length < n then .error .incomplete
      else .ok ⟨outboundFields k (B.take n) n, some (stampOf (B.take n) n), B.drop n⟩

/-- The decoder, total on any bytes: a recognized ID is read as its inbound kind (R77), any other as an outbound kind's. -/
def decode (c : Config) (B : List Byte) : Except DecodeError Decoded :=
  match front c B with
  | .unrecognized => decodeOutbound c B
  | _ => decodeInbound c B

/-! ### Encoding -/

/-- `[N] ++ T_0 ++ ... ++ T_{N-1}` (R167). -/
def groupPayload (ts : List RegTriple) : List Byte := BitVec.ofNat 8 ts.length :: recordBytes RegTriple.bytes ts

/-- An outbound instruction's kind and payload bytes, in the order of R71 to R76; `none` for any other instruction. -/
def Instr.outPayload : Instr → Option (OutKind × List Byte)
  | .getStatus _ => some (.getStatus, [])
  | .getDeviceInfo _ => some (.getDeviceInfo, [])
  | .setMode P _ => some (.setMode, P)
  | .setRegister b a v _ => some (.setRegister, [b, a, v])
  | .setRegisterGroup ts _ => some (.setRegisterGroup, groupPayload ts)
  | .setLeds r g b _ => some (.setLeds, [r, g, b])
  | .resetBootloader m _ => some (.resetBootloader, [m])
  | .status _ _ _ _ _ => none
  | .deviceInfo _ _ _ _ _ _ => none
  | .coordinate _ _ => none
  | .extendedCoordinates _ _ => none
  | .ack _ _ => none
  | .nack _ _ _ => none
  | .crcCompute _ _ => none
  | .crcAppend _ _ _ => none
  | .crcCheck _ _ => none
  | .rxPush _ => none
  | .parseStep => none
  | .flush => none
  | .txnAlloc => none
  | .txAssemble _ _ _ => none
  | .txnWait _ => none
  | .readRegs => none
  | .sessionInit => none
  | .reset => none

/-- The bytes of a STATUS frame (R65). -/
def statusBytes (c : Config) (t st mo : Byte) (up : Long) (crc : Half) : List Byte :=
  [c.inboundId .status, t, st, mo] ++ bytes32 up ++ bytes16 crc

/-- The bytes of a DEVICE_INFO frame (R66). -/
def deviceInfoBytes (c : Config) (t hw ma mi : Byte) (sn : Long) (crc : Half) : List Byte :=
  [c.inboundId .deviceInfo, t, hw, ma, mi] ++ bytes32 sn ++ bytes16 crc

/-- The bytes of a COORDINATE frame: no txid byte (R63, R67). -/
def coordinateBytes (c : Config) (ps : Vector Point 16) (crc : Half) : List Byte :=
  [c.inboundId .coordinate] ++ recordBytes Point.bytes ps.toList ++ bytes16 crc

/-- The bytes of an EXTENDED_COORDINATES frame: no txid byte (R63, R68). -/
def extendedCoordinatesBytes (c : Config) (rs : Vector ExtRecord 16) (crc : Half) : List Byte :=
  [c.inboundId .extendedCoordinates] ++ recordBytes ExtRecord.bytes rs.toList ++ bytes16 crc

/-- The bytes of an ACK frame (R69). -/
def ackBytes (c : Config) (t : Byte) (crc : Half) : List Byte := [c.inboundId .ack, t] ++ bytes16 crc

/-- The bytes of a NACK frame (R70). -/
def nackBytes (c : Config) (t reason : Byte) (crc : Half) : List Byte := [c.inboundId .nack, t, reason] ++ bytes16 crc

/-- The bytes of an outbound frame, `[KIND_ID(k)][txid][payload][crc_hi][crc_lo]` (section 3 of 30_encoding.md). -/
def outboundBytes (c : Config) (k : OutKind) (P : List Byte) (s : Stamp) : List Byte :=
  [c.outboundId k, s.txid] ++ P ++ bytes16 s.crc

/-- An inbound instruction's kind and frame bytes; `none` for any other instruction. -/
def Instr.inFrame (c : Config) : Instr → Option (InKind × List Byte)
  | .status t st mo up crc => some (.status, statusBytes c t st mo up crc)
  | .deviceInfo t hw ma mi sn crc => some (.deviceInfo, deviceInfoBytes c t hw ma mi sn crc)
  | .coordinate ps crc => some (.coordinate, coordinateBytes c ps crc)
  | .extendedCoordinates rs crc => some (.extendedCoordinates, extendedCoordinatesBytes c rs crc)
  | .ack t crc => some (.ack, ackBytes c t crc)
  | .nack t r crc => some (.nack, nackBytes c t r crc)
  | .getStatus _ => none
  | .getDeviceInfo _ => none
  | .setMode _ _ => none
  | .setRegister _ _ _ _ => none
  | .setRegisterGroup _ _ => none
  | .setLeds _ _ _ _ => none
  | .resetBootloader _ _ => none
  | .crcCompute _ _ => none
  | .crcAppend _ _ _ => none
  | .crcCheck _ _ => none
  | .rxPush _ => none
  | .parseStep => none
  | .flush => none
  | .txnAlloc => none
  | .txAssemble _ _ _ => none
  | .txnWait _ => none
  | .readRegs => none
  | .sessionInit => none
  | .reset => none

/-- The encoder: the frame bytes of a frame instruction (an outbound one with the stamp `s`), `none` for the twelve port
operations, which have no binary encoding (R80, D2). -/
def encode (c : Config) (s : Stamp) (i : Instr) : Option (List Byte) :=
  match i.inFrame c with
  | some (_, F) => some F
  | none =>
    match i.outPayload with
    | some (k, P) => some (outboundBytes c k P s)
    | none => none

/-! ### The host's numbering of bits -/

/-- n bytes of the number w, byte i being bits 8i+7 down to 8i (bit 0 is the least significant bit of byte 0). -/
def bytesOfNat : Nat → Nat → List Byte
  | 0, _ => []
  | n + 1, w => BitVec.ofNat 8 w :: bytesOfNat n (w / 256)

/-- The bytes of a table word: `nbits` bits of w, every later bit up to the longest frame 0. -/
def wordBytes (nbits w : Nat) : List Byte := bytesOfNat maxFrame (w % 2 ^ nbits)

/-- The instruction the decoder reads from a table word, under the test configuration. -/
def decodeTableWord (nbits w : Nat) : Option Instr :=
  match decode Config.testConfig (wordBytes nbits w) with
  | .ok d => some d.instr
  | .error _ => none

end Sys2Proof
end

