-- ==== Sys2Proof/Machine/Flags.lean ====
section
/-! DEFINITION. The conditions the block computes. It has no flags register (spec/10_state.md R31); what a flag would hold is
the value of the CRC (spec/40_crc.md R100), the CRC test (R103) and the two comparisons of a wait (spec/43_transaction.md
R155). -/

namespace Sys2Proof.Machine

/-- One shift of R100's inner loop. -/
def crcShift (c : Half) : Half := if c.getLsbD 15 then (c <<< 1) ^^^ 0x1021 else c <<< 1

/-- n shifts. -/
def crcShifts : Nat → Half → Half
  | 0, c => c
  | n + 1, c => crcShifts n (crcShift c)

/-- One byte of R100's outer loop: it enters at the top, most significant bit first, and is shifted eight times. -/
def crcByte (c : Half) (b : Byte) : Half := crcShifts 8 (c ^^^ (b.zeroExtend 16 <<< 8))

/-- The CRC register after the bytes B from the value c. -/
def crcFrom (c : Half) (B : List Byte) : Half := B.foldl crcByte c

/-- `CRC_COMPUTE` of a whole byte list: initial value 0xFFFF, no final exclusive or (R100). -/
def crc16 (B : List Byte) : Half := crcFrom 0xFFFF B

/-- R103's comparison, for `2 <= n <= len(B)`: the CRC of the first n-2 bytes against the last two of the first n, big-endian. -/
def crcMatches (B : List Byte) (n : Nat) : Bool :=
  crc16 (B.take (n - 2)) == be16 (byteAt B (n - 2)) (byteAt B (n - 1))

/-- `[b...] ++ [hi8(crc), lo8(crc)]`: bytes with their CRC after them (R78). -/
def sealed (B : List Byte) : List Byte := B ++ bytes16 (crc16 B)

/-- The NACK test of a wait: equality (R155, R158). -/
def nackTest (lastNackId T : Byte) : Bool := lastNackId == T

/-- The ACK test of a wait: the plain unsigned `>=`, unaware of the wrap (R155, R159). -/
def ackTest (lastAckId T : Byte) : Bool := T.ule lastAckId

end Sys2Proof.Machine
end

