-- ==== Sys2Proof/Machine/Operands.lean ====
section
/-! DEFINITION. The operand forms of the port operations: the ranges the CRC operations admit (spec/40_crc.md R100, R102, R103),
the chunk of a push (spec/41_synchronizer.md R112), and `payload_ok` of the outbound kinds (spec/43_transaction.md R163 to R169). -/

namespace Sys2Proof.Machine

/-- CRC_COMPUTE's operands are in range: not `n > len(B)` (R100). -/
def computeOk (B : List Byte) (n : Nat) : Bool := n ≤ B.length

/-- CRC_APPEND's operands are in range: not `n + 2 > cap or len(B) != cap` (R102). -/
def appendOk (B : List Byte) (n cap : Nat) : Bool := n + 2 ≤ cap && B.length == cap

/-- CRC_CHECK's operands are in range: not `n < 2 or n > len(B)` (R103). -/
def checkOk (B : List Byte) (n : Nat) : Bool := 2 ≤ n && n ≤ B.length

/-- The buffer CRC_APPEND returns, `B[0..n) ++ [hi8(c), lo8(c)] ++ B[n+2..cap)` with cap = len(B) (R102). -/
def appended (B : List Byte) (n : Nat) : List Byte := sealed (B.take n) ++ B.drop (n + 2)

/-- The chunk length RX_PUSH admits: 1 to `CHUNK_MAX` (R112). -/
def chunkOk (C : List Byte) : Bool := 1 ≤ C.length && C.length ≤ chunkMax

/-- `payload_ok(k, P)` (R163 to R169). -/
def payloadOk (c : Config) (k : OutKind) (P : List Byte) : Bool :=
  match k with
  | .getStatus => P.length == 0
  | .getDeviceInfo => P.length == 0
  | .setMode => P.length == c.setModeLen.bytes - 4
  | .setRegister => P.length == 3
  | .setRegisterGroup =>
    match P with
    | [] => false
    | N :: ts => N.toNat ≤ groupMax && ts.length == 3 * N.toNat
  | .setLeds => P.length == 3
  | .resetBootloader => P.length == 1

/-- The length of the frame with payload P, `n <- 2 + len(P) + 2` (R152). -/
def outLength (P : List Byte) : Nat := 2 + P.length + 2

/-- The host buffer TX_ASSEMBLE gives to CRC_APPEND: `[KIND_ID(k), t] ++ P ++ zeros(cap - n + 2)` (R152). -/
def txBuffer (c : Config) (k : OutKind) (t : Byte) (P : List Byte) (cap : Nat) : List Byte :=
  [c.outboundId k, t] ++ P ++ List.replicate (cap - outLength P + 2) 0

/-- The frame TX_ASSEMBLE returns: the first n bytes of what CRC_APPEND makes of its buffer (R152). -/
def txFrame (c : Config) (k : OutKind) (t : Byte) (P : List Byte) (cap : Nat) : List Byte :=
  (appended (txBuffer c k t P cap) (2 + P.length)).take (outLength P)

/-- The LED payload of three named states (R75, R168). -/
def ledsPayload (red green blue : LedState) : List Byte :=
  [Config.ledCode red, Config.ledCode green, Config.ledCode blue]

end Sys2Proof.Machine
end

