-- ==== Sys2Proof/Machine/State.lean ====
section
/-! DEFINITION. The block's state as plain data (spec/10_state.md), the model's own fields beside it, the reasons a step can
stop (spec/60_exceptions.md R181), and the state after reset (spec/70_reset_and_hazards.md R202). -/

namespace Sys2Proof.Machine

/-- The receive buffer's bytes, index 0 at the front (R22, R40). A byte list is its own canonical form
(DESIGN CHOICE, notes/assumptions/7.md). -/
abbrev Memory := List Byte

/-- `Accept(k, F)`: a frame of kind k with bytes F was accepted (R34). -/
structure Event where
  kind : InKind
  bytes : List Byte
deriving DecidableEq, Repr

/-- The outcome of a parse step (R31, R113). -/
inductive ParseOutcome where
  | haltEmpty
  | dropUnrecognized
  | haltIncomplete
  | accept (k : InKind)
  | dropBadCrc
deriving DecidableEq, Repr

/-- The outcome of a wait (R31, R157). -/
inductive WaitOutcome where
  | success
  | rejected
  | timeout
deriving DecidableEq, Repr

/-- A waiter's phase (R29). -/
inductive WaitPhase where
  | checkNack
  | checkAck
  | decide
  | done (o : WaitOutcome)
deriving DecidableEq, Repr

/-- One TXN_WAIT: its target and its phase (R29). -/
structure Waiter where
  target : Byte
  phase : WaitPhase
deriving DecidableEq, Repr

/-- What an operation returned on its result port (R31, R80). RX_PUSH, FLUSH, SESSION_INIT and RESET return nothing. -/
inductive Result where
  /-- CRC_COMPUTE's value -/
  | crc (v : Half)
  /-- CRC_APPEND's buffer and new length -/
  | appended (B : List Byte) (n : Nat)
  /-- CRC_CHECK's Boolean -/
  | checked (ok : Bool)
  /-- PARSE_STEP's outcome -/
  | parsed (o : ParseOutcome)
  /-- TXN_ALLOC's transaction ID -/
  | txid (t : Byte)
  /-- TX_ASSEMBLE's frame, length and transaction ID; length 0 and no ID for the zero-length encode -/
  | assembled (F : List Byte) (len : Nat) (t : Option Byte)
  /-- the outcome of the wait for T -/
  | waited (T : Byte) (o : WaitOutcome)
  /-- READ_REGS's tuple -/
  | regs (lastAckId lastNackId lastNackReason : Byte) (syncBusy : Bool)
deriving DecidableEq, Repr

/-- Which agent moves next (R185), and, for a waiter, what it draws if it is at DECIDE (`true`: Timeout) (R161). -/
inductive Turn where
  /-- the next operation the host agents offer -/
  | host
  /-- the SYNC agent's own PARSE_STEP -/
  | sync
  /-- the n-th waiter -/
  | waiter (n : Nat) (timesOut : Bool)
deriving DecidableEq, Repr

/-- The free DECIDE draws taken so far (notes/assumptions/3.md). -/
structure Draws where
  /-- how many were Timeout -/
  timeouts : Nat
  /-- how many went on since the last Timeout -/
  wentOn : Nat
deriving DecidableEq, Repr

/-- The state. The first eight fields are the spec's; the last five are the model's own (see the docstrings). -/
structure State where
  /-- `BUF` (R22) -/
  buf : Memory
  /-- `SYNC_BUSY` (R23) -/
  syncBusy : Bool
  /-- `TXN_CTR` (R24) -/
  txnCtr : Byte
  /-- `LAST_ACK_ID` (R25) -/
  lastAckId : Byte
  /-- `LAST_NACK_ID` (R26) -/
  lastNackId : Byte
  /-- `LAST_NACK_REASON` (R27) -/
  lastNackReason : Byte
  /-- the waiters started, in order (R29); one that has returned stays with its phase DONE -/
  waiters : List Waiter
  /-- `OUT`, oldest event first (R34); no step reads it -/
  out : List Event
  /-- MODEL'S OWN: the results returned, oldest first (R192; notes/assumptions/5.md); no step reads it -/
  results : List Result
  /-- MODEL'S OWN: the configuration of the run (R8, R56; notes/assumptions/1.md); no step changes it -/
  cfg : Config
  /-- MODEL'S OWN: the operations the host agents offer, next first (R186; notes/assumptions/4.md) -/
  offered : List Instr
  /-- MODEL'S OWN: the interleaving, next turn first (R185; notes/assumptions/4.md) -/
  sched : List Turn
  /-- MODEL'S OWN: the free draws taken (R161; notes/assumptions/3.md) -/
  draws : Draws
deriving DecidableEq, Repr

/-- Why there is no step. Neither is a trap of the block (it has none, R180). -/
inductive Fault where
  /-- Raised by PARSE_STEP and by an inbound frame while `SYNC_BUSY = 0`: PARSE_STEP is enabled exactly when it is 1, so no
  such step exists (R113). Safe: the model stops. -/
  | parseStepNotEnabled
  /-- Raised by an inbound frame that is not the window at the front of the buffer: only the frame at `BUF[0]` is examined
  (R21, R113). Safe: the model stops. -/
  | frameNotAtFront
deriving DecidableEq, Repr

/-- The refusals of R181, and the host's `notModelled`. All are safe: the model has no step. -/
inductive Refusal where
  /-- Raised by an arm of `exec` that has no meaning yet (none has this now). Safe. -/
  | notModelled (mnemonic : String)
  /-- Raised by CRC_COMPUTE with n > len(B) (R100). Safe. -/
  | crcRangeOutsideOperand
  /-- Raised by CRC_APPEND with n + 2 > cap or len(B) != cap (R102). Safe. -/
  | crcAppendOverflow
  /-- Raised by CRC_CHECK with n < 2 or n > len(B) (R103). Safe. -/
  | crcCheckLength
  /-- Raised by RX_PUSH of no bytes or of more than CHUNK_MAX (R112). Safe. -/
  | chunkLength
  /-- Raised by RX_PUSH of a chunk that does not fit BUF_CAP (R112). Safe. -/
  | bufferOverflow
  /-- Raised by TX_ASSEMBLE of an inbound kind (R152). Safe. -/
  | notOutbound
  /-- Raised by TX_ASSEMBLE and the outbound kinds when payload_ok fails (R152, R163 to R169). Safe. -/
  | payloadShape
  /-- Raised by TX_ASSEMBLE and the outbound kinds but SET_REGISTER_GROUP when cap is less than the frame (R152). Safe. -/
  | txBufferTooSmall
  /-- Raised by every step of a run whose configuration gives two inbound kinds one ID (R61, R111 a). Safe. -/
  | configInvalid
  /-- Raised by RESET and SESSION_INIT while a waiter is in progress (R200, R201). Safe. -/
  | resetWhileActive
deriving DecidableEq, Repr

/-- The outcome of one step of this machine. -/
abbrev Outcome := Host.Outcome State Fault Refusal

/-- The state after RESET of a fresh block with configuration c, before anything is offered (R202, R29, R34). -/
def State.resetOf (c : Config) : State where
  buf := []
  syncBusy := false
  txnCtr := c.txnCtrInit
  lastAckId := 0x00
  lastNackId := 0x00
  lastNackReason := 0x00
  waiters := []
  out := []
  results := []
  cfg := c
  offered := []
  sched := []
  draws := ⟨0, 0⟩

/-- The state after reset under the test configuration (notes/assumptions/2.md). -/
def State.reset : State := State.resetOf Config.testConfig

end Sys2Proof.Machine
end

