-- ==== Sys2Proof/Machine/Ops.lean ====
section
/-! DEFINITION. The named operations over the receive buffer (MemRead, BufAppend, BufDropFront of spec/00_scope.md R12), over the
registers and histories, and the shared operations the meanings are made of: the outcomes of a parse step (spec/41_synchronizer.md
R114 to R118), taking a transaction ID (spec/43_transaction.md R150) and clearing the session (spec/70_reset_and_hazards.md R201).
The block takes no exceptions (spec/60_exceptions.md R180), so there is no exception entry and no return. -/

namespace Sys2Proof.Machine

/-! ### The receive buffer -/

/-- The canonical form: at most `BUF_CAP` bytes (R22). -/
def Memory.wf (cap : Nat) (m : Memory) : Bool := m.length ≤ cap

/-- One byte of the buffer; an index at or beyond len(BUF) does not exist (R40). -/
def Memory.byte (m : Memory) (a : Nat) : Option Byte := m[a]?

/-- `MemRead(i, n)`, defined when i + n <= len(BUF) (R12). -/
def Memory.read (m : Memory) (i n : Nat) : List Byte := (m.drop i).take n

/-- `BufAppend(C)` (R12). -/
def Memory.append (m : Memory) (C : List Byte) : Memory := m ++ C

/-- `BufDropFront(n)` (R12). -/
def Memory.dropFront (m : Memory) (n : Nat) : Memory := m.drop n

/-! ### One update per field -/

/-- `BUF <- m`. -/
def State.setBuf (s : State) (m : Memory) : State := { s with buf := m }

/-- `SYNC_BUSY <- b`. -/
def State.setBusy (s : State) (b : Bool) : State := { s with syncBusy := b }

/-- `TXN_CTR <- t`. -/
def State.setTxnCtr (s : State) (t : Byte) : State := { s with txnCtr := t }

/-- `LAST_ACK_ID <- t`. -/
def State.setAck (s : State) (t : Byte) : State := { s with lastAckId := t }

/-- `LAST_NACK_ID <- t; LAST_NACK_REASON <- r`, in one step (R26, R30). -/
def State.setNack (s : State) (t r : Byte) : State := { s with lastNackId := t, lastNackReason := r }

/-- The waiters become ws. -/
def State.setWaiters (s : State) (ws : List Waiter) : State := { s with waiters := ws }

/-- `emit Accept(k, F)` (R12). -/
def State.emit (s : State) (k : InKind) (F : List Byte) : State := { s with out := s.out ++ [⟨k, F⟩] }

/-- `return v`: the operation's result on its result port (R12). -/
def State.ret (s : State) (r : Result) : State := { s with results := s.results ++ [r] }

/-- The operations offered become q. -/
def State.setOffered (s : State) (q : List Instr) : State := { s with offered := q }

/-- The turns to come become l. -/
def State.setSched (s : State) (l : List Turn) : State := { s with sched := l }

/-- One more free draw is taken, a Timeout or not. -/
def State.countDraw (timesOut : Bool) (s : State) : State :=
  { s with draws := if timesOut then ⟨s.draws.timeouts + 1, 0⟩ else ⟨s.draws.timeouts, s.draws.wentOn + 1⟩ }

/-! ### Holding -/

/-- An operation that holds stays offered, in front of the others, and changes nothing else (R181). -/
def State.hold (s : State) (i : Instr) : State := s.setOffered (i :: s.offered)

/-! ### The outcomes of a parse step -/

/-- R114: `SYNC_BUSY <- 0`. -/
def haltEmpty (s : State) : State := (s.setBusy false).ret (.parsed .haltEmpty)

/-- R115: one byte is dropped. -/
def dropUnrecognized (s : State) : State := (s.setBuf (s.buf.dropFront 1)).ret (.parsed .dropUnrecognized)

/-- R116: `SYNC_BUSY <- 0`; nothing is dropped. -/
def haltIncomplete (s : State) : State := (s.setBusy false).ret (.parsed .haltIncomplete)

/-- R118: one byte is dropped. -/
def dropBadCrc (s : State) : State := (s.setBuf (s.buf.dropFront 1)).ret (.parsed .dropBadCrc)

/-- The register effects of accepting F: ACK's and NACK's, none for the other kinds (R117, R135, R136). -/
def acceptRegs (k : InKind) (F : List Byte) (s : State) : State :=
  match k with
  | .ack => s.setAck (byteAt F 1)
  | .nack => s.setNack (byteAt F 1) (byteAt F 2)
  | .status => s
  | .deviceInfo => s
  | .coordinate => s
  | .extendedCoordinates => s

/-- R117: the event, the registers and the removal of the frame, in one step. -/
def accept (k : InKind) (F : List Byte) (s : State) : State :=
  ((acceptRegs k F (s.emit k F)).setBuf (s.buf.dropFront (inboundSize k))).ret (.parsed (.accept k))

/-- The CRC test of a complete window F of kind k over its own size (R106, R113): ACCEPT or DROP_BAD_CRC. -/
def finishFrame (k : InKind) (F : List Byte) (s : State) : State :=
  if crcMatches F (inboundSize k) then accept k F s else dropBadCrc s

/-- The frame F of kind k as an instruction: the parse step that finds F at the front of the buffer. It is enabled when
`SYNC_BUSY = 1` and F is the window at the front (R113, R117; DEDUCED, notes/assumptions/8.md). -/
def receive (k : InKind) (F : List Byte) (s : State) : Outcome :=
  if s.syncBusy = false then .fault .parseStepNotEnabled
  else if front s.cfg s.buf = .complete k ∧ s.buf.read 0 (inboundSize k) = F then .next (finishFrame k F s)
  else .fault .frameNotAtFront

/-! ### The transaction matcher -/

/-- `TXN_CTR <- (t + 1) mod 256` (R150). -/
def advanceTxn (s : State) : State := s.setTxnCtr (s.txnCtr + 1)

/-- TX_ASSEMBLE of an outbound kind, after the kind test (R152): the payload, then the capacity, then the allocation and
the frame. -/
def assemble (k : OutKind) (P : List Byte) (cap : Nat) (s : State) : Outcome :=
  if payloadOk s.cfg k P = false then .refused .payloadShape
  else if k = .setRegisterGroup ∧ cap < outLength P then .next (s.ret (.assembled [] 0 none))
  else if cap < outLength P then .refused .txBufferTooSmall
  else .next ((advanceTxn s).ret (.assembled (txFrame s.cfg k s.txnCtr P cap) (outLength P) (some s.txnCtr)))

/-- A wait that has not returned (R29). -/
def Waiter.inProgress (w : Waiter) : Bool :=
  match w.phase with
  | .done _ => false
  | .checkNack => true
  | .checkAck => true
  | .decide => true

/-- Some waiter is in progress (R200). -/
def State.waiting (s : State) : Bool := s.waiters.any Waiter.inProgress

/-! ### Clearing -/

/-- `BUF <- []; SYNC_BUSY <- 0` (R121). -/
def clearSync (s : State) : State := (s.setBuf []).setBusy false

/-- R201's assignments: the buffer, the busy flag and the last-seen registers. The waiters in the list have all returned
(the precondition), and stay there (notes/assumptions/11.md). -/
def clearSession (s : State) : State := ((clearSync s).setAck 0x00).setNack 0x00 0x00

end Sys2Proof.Machine
end

