-- ==== Sys2Proof/Machine/Crc.lean ====
section
/-! DEFINITION. The CRC unit's three operations (spec/40_crc.md R100, R102, R103). The unit has no state: each only returns a
result. -/

namespace Sys2Proof.Machine

/-- CRC_COMPUTE B, n (R100). -/
def execCrcCompute (B : List Byte) (n : Nat) (s : State) : Outcome :=
  if computeOk B n then .next (s.ret (.crc (crc16 (B.take n)))) else .refused .crcRangeOutsideOperand

/-- CRC_APPEND B, n, cap (R102). -/
def execCrcAppend (B : List Byte) (n cap : Nat) (s : State) : Outcome :=
  if appendOk B n cap then .next (s.ret (.appended (appended B n) (n + 2))) else .refused .crcAppendOverflow

/-- CRC_CHECK B, n (R103). -/
def execCrcCheck (B : List Byte) (n : Nat) (s : State) : Outcome :=
  if checkOk B n then .next (s.ret (.checked (crcMatches B n))) else .refused .crcCheckLength

end Sys2Proof.Machine
end

