-- ==== Sys2Proof/Machine/Inbound.lean ====
section
/-! DEFINITION. The six inbound frame kinds (spec/42_frame_decode.md): as instructions, the parse step that finds the frame at the
front of the buffer; and the consumer's decode functions, pure functions of an accepted frame's bytes (R130). -/

namespace Sys2Proof.Machine

/-- STATUS (R131): no register effect. -/
def execStatus (t st mo : Byte) (up : Long) (crc : Half) (s : State) : Outcome :=
  receive .status (statusBytes s.cfg t st mo up crc) s

/-- DEVICE_INFO (R132): no register effect. -/
def execDeviceInfo (t hw ma mi : Byte) (sn : Long) (crc : Half) (s : State) : Outcome :=
  receive .deviceInfo (deviceInfoBytes s.cfg t hw ma mi sn crc) s

/-- COORDINATE (R133): no register effect. -/
def execCoordinate (ps : Vector Point 16) (crc : Half) (s : State) : Outcome :=
  receive .coordinate (coordinateBytes s.cfg ps crc) s

/-- EXTENDED_COORDINATES (R134): no register effect. -/
def execExtendedCoordinates (rs : Vector ExtRecord 16) (crc : Half) (s : State) : Outcome :=
  receive .extendedCoordinates (extendedCoordinatesBytes s.cfg rs crc) s

/-- ACK (R135): `LAST_ACK_ID <- F[1]` at ACCEPT. -/
def execAck (t : Byte) (crc : Half) (s : State) : Outcome := receive .ack (ackBytes s.cfg t crc) s

/-- NACK (R136): `LAST_NACK_ID <- F[1]; LAST_NACK_REASON <- F[2]` at ACCEPT. -/
def execNack (t r : Byte) (crc : Half) (s : State) : Outcome := receive .nack (nackBytes s.cfg t r crc) s

/-! ### What a consumer decodes -/

/-- `decode_STATUS(F)` (R131). -/
def decodeStatus (F : List Byte) : StatusInfo where
  txid := byteAt F 1
  cameraStatus := byteAt F 2
  cameraMode := byteAt F 3
  uptimeSeconds := be32 (byteAt F 4) (byteAt F 5) (byteAt F 6) (byteAt F 7)

/-- Whether a camera status code stands for a name; a code that equals none is kept as its byte (R131). -/
def isCamStatus (code : Byte) (st : CamStatus) : Bool := code == Config.camStatusCode st

/-- "non-idle mode" (R131). -/
def nonIdle (cameraMode : Byte) : Bool := cameraMode != Config.camModeCode .idle

/-- `decode_DEVICE_INFO(F)` (R132). -/
def decodeDeviceInfo (F : List Byte) : DeviceInfo where
  txid := byteAt F 1
  hardwareVersion := byteAt F 2
  softwareVersionMajor := byteAt F 3
  softwareVersionMinor := byteAt F 4
  serialNumber := be32 (byteAt F 5) (byteAt F 6) (byteAt F 7) (byteAt F 8)

/-- `point(i)` of a COORDINATE frame F (R133). -/
def decodePoint (F : List Byte) (i : Nat) : PointInfo where
  x := be16 (byteAt F (1 + 5 * i)) (byteAt F (1 + 5 * i + 1))
  y := be16 (byteAt F (1 + 5 * i + 2)) (byteAt F (1 + 5 * i + 3))
  brightness := byteAt F (1 + 5 * i + 4)
  detected := byteAt F (1 + 5 * i + 4) != 0

/-- `decode_COORDINATE(F)` (R133). -/
def decodeCoordinate (F : List Byte) : List PointInfo := (List.range 16).map (decodePoint F)

/-- `xpoint(i)` of an EXTENDED_COORDINATES frame F (R134). -/
def decodeExtPoint (F : List Byte) (i : Nat) : ExtPointInfo where
  area := be16 (byteAt F (1 + 16 * i)) (byteAt F (1 + 16 * i + 1))
  coordinateX := be16 (byteAt F (1 + 16 * i + 2)) (byteAt F (1 + 16 * i + 3)) &&& extCoordMask
  coordinateY := be16 (byteAt F (1 + 16 * i + 4)) (byteAt F (1 + 16 * i + 5)) &&& extCoordMask
  averageBrightness := byteAt F (1 + 16 * i + 6)
  maximumBrightness := byteAt F (1 + 16 * i + 7)
  range := highNibble (byteAt F (1 + 16 * i + 8))
  radius := lowNibble (byteAt F (1 + 16 * i + 8))
  boundary := [byteAt F (1 + 16 * i + 9), byteAt F (1 + 16 * i + 10), byteAt F (1 + 16 * i + 11), byteAt F (1 + 16 * i + 12)]
  aspectRatio := byteAt F (1 + 16 * i + 13)
  vx := byteAt F (1 + 16 * i + 14)
  vy := byteAt F (1 + 16 * i + 15)

/-- `decode_EXTENDED_COORDINATES(F)` (R134). -/
def decodeExtendedCoordinates (F : List Byte) : List ExtPointInfo := (List.range 16).map (decodeExtPoint F)

/-- `decode_ACK(F)`: the txid (R135). -/
def decodeAck (F : List Byte) : Byte := byteAt F 1

/-- `decode_NACK(F)`: the txid and the reason (R136). -/
def decodeNack (F : List Byte) : Byte × Byte := (byteAt F 1, byteAt F 2)

end Sys2Proof.Machine
end

