-- ==== Sys2Proof/Machine/Outbound.lean ====
section
/-! DEFINITION. The seven outbound frame kinds (spec/43_transaction.md R163 to R169), each the builder of its kind: TX_ASSEMBLE
with the payload of its layout (spec/30_encoding.md R71 to R76). -/

namespace Sys2Proof.Machine

/-- GET_STATUS (R163): no payload. -/
def execGetStatus (cap : Nat) (s : State) : Outcome := assemble .getStatus [] cap s

/-- GET_DEVICE_INFO (R164): no payload. -/
def execGetDeviceInfo (cap : Nat) (s : State) : Outcome := assemble .getDeviceInfo [] cap s

/-- SET_MODE (R165): `SET_MODE_LEN - 4` opaque bytes. -/
def execSetMode (P : List Byte) (cap : Nat) (s : State) : Outcome := assemble .setMode P cap s

/-- SET_REGISTER (R166): bank, address, value. -/
def execSetRegister (b a v : Byte) (cap : Nat) (s : State) : Outcome := assemble .setRegister [b, a, v] cap s

/-- SET_REGISTER_GROUP (R167): the count and the triples; more than `GROUP_MAX` triples are refused. -/
def execSetRegisterGroup (ts : List RegTriple) (cap : Nat) (s : State) : Outcome :=
  if groupMax < ts.length then .refused .payloadShape else assemble .setRegisterGroup (groupPayload ts) cap s

/-- SET_LEDS (R168): red, green, blue. -/
def execSetLeds (r g b : Byte) (cap : Nat) (s : State) : Outcome := assemble .setLeds [r, g, b] cap s

/-- RESET_BOOTLOADER (R169): one mode byte. -/
def execResetBootloader (m : Byte) (cap : Nat) (s : State) : Outcome := assemble .resetBootloader [m] cap s

end Sys2Proof.Machine
end

