-- ==== Sys2Proof/Machine/Sync.lean ====
section
/-! DEFINITION. The synchronizer's steps (spec/41_synchronizer.md): RX_PUSH (R112), PARSE_STEP (R113) and FLUSH (R121). -/

namespace Sys2Proof.Machine

/-- RX_PUSH C (R112). While `SYNC_BUSY = 1` it holds: it stays offered and nothing else changes. -/
def execRxPush (C : List Byte) (s : State) : Outcome :=
  if s.syncBusy then .next (s.hold (.rxPush C))
  else if chunkOk C = false then .refused .chunkLength
  else if s.cfg.bufCap < s.buf.length + C.length then .refused .bufferOverflow
  else .next ((s.setBuf (s.buf.append C)).setBusy true)

/-- PARSE_STEP (R113), enabled exactly when `SYNC_BUSY = 1`: one of its five outcomes, tested in the rule's order. -/
def execParseStep (s : State) : Outcome :=
  if s.syncBusy = false then .fault .parseStepNotEnabled
  else
    match front s.cfg s.buf with
    | .empty => .next (haltEmpty s)
    | .unrecognized => .next (dropUnrecognized s)
    | .incomplete _ => .next (haltIncomplete s)
    | .complete k => .next (finishFrame k (s.buf.read 0 (inboundSize k)) s)

/-- FLUSH (R121), admitted at any time. -/
def execFlush (s : State) : Outcome := .next (clearSync s)

end Sys2Proof.Machine
end

