-- ==== Sys2Proof/Machine/System.lean ====
section
/-! DEFINITION. SESSION_INIT and RESET (spec/70_reset_and_hazards.md R201, R200), refused while a waiter is in progress. -/

namespace Sys2Proof.Machine

/-- SESSION_INIT (R201): `TXN_CTR` is unchanged. -/
def execSessionInit (s : State) : Outcome :=
  if s.waiting then .refused .resetWhileActive else .next (clearSession s)

/-- RESET (R200): the session's assignments and `TXN_CTR <- TXN_CTR_INIT`; `OUT` is unchanged. -/
def execReset (s : State) : Outcome :=
  if s.waiting then .refused .resetWhileActive else .next ((clearSession s).setTxnCtr s.cfg.txnCtrInit)

end Sys2Proof.Machine
end

