-- ==== Sys2Proof/Machine/Transaction.lean ====
section
/-! DEFINITION. The transaction matcher (spec/43_transaction.md): TXN_ALLOC (R150), TX_ASSEMBLE (R152), TXN_WAIT and the steps of
a waiter (R157 to R160), and READ_REGS (spec/10_state.md R30). -/

namespace Sys2Proof.Machine

/-- TXN_ALLOC (R150): returns the counter and advances it. -/
def execTxnAlloc (s : State) : Outcome := .next ((advanceTxn s).ret (.txid s.txnCtr))

/-- TX_ASSEMBLE k, P, cap (R152). -/
def execTxAssemble (k : Kind) (P : List Byte) (cap : Nat) (s : State) : Outcome :=
  match k with
  | .inbound _ => .refused .notOutbound
  | .outbound k => assemble k P cap s

/-- The phase a loop of a wait begins with (R157, R160). -/
def firstPhase : CheckOrder → WaitPhase
  | .nackFirst => .checkNack
  | .ackFirst => .checkAck

/-- The phase after a CHECK_NACK that does not return (R158, R160). -/
def afterNack : CheckOrder → WaitPhase
  | .nackFirst => .checkAck
  | .ackFirst => .decide

/-- The phase after a CHECK_ACK that does not return (R159, R160). -/
def afterAck : CheckOrder → WaitPhase
  | .nackFirst => .decide
  | .ackFirst => .checkNack

/-- TXN_WAIT T (R157): a waiter for T starts, at the first phase of its loop (R29, R156). Its steps are `waiterStep`'s,
taken at the waiter's turns, and its outcome is returned by the step that reaches DONE. -/
def execTxnWait (T : Byte) (s : State) : Outcome :=
  .next (s.setWaiters (s.waiters ++ [⟨T, firstPhase s.cfg.waitCheckOrder⟩]))

/-- The phase a waiter goes to at its turn: CHECK_NACK (R158), CHECK_ACK (R159), or DECIDE with the draw `timesOut` (R160, R161). -/
def nextPhase (s : State) (timesOut : Bool) (w : Waiter) : WaitPhase :=
  match w.phase with
  | .checkNack => if nackTest s.lastNackId w.target then .done .rejected else afterNack s.cfg.waitCheckOrder
  | .checkAck => if ackTest s.lastAckId w.target then .done .success else afterAck s.cfg.waitCheckOrder
  | .decide => if timesOut then .done .timeout else firstPhase s.cfg.waitCheckOrder
  | .done o => .done o

/-- One step of the n-th waiter. A waiter that has returned, or does not exist, has no step and nothing changes. -/
def waiterStep (n : Nat) (timesOut : Bool) (s : State) : State :=
  match s.waiters[n]? with
  | none => s
  | some w =>
    if w.inProgress then
      let s' := s.setWaiters (s.waiters.set n ⟨w.target, nextPhase s timesOut w⟩)
      match nextPhase s timesOut w with
      | .done o => s'.ret (.waited w.target o)
      | .checkNack => s'
      | .checkAck => s'
      | .decide => s'
    else s

/-- READ_REGS (R30): the four values of one instant; nothing is written. -/
def execReadRegs (s : State) : Outcome :=
  .next (s.ret (.regs s.lastAckId s.lastNackId s.lastNackReason s.syncBusy))

end Sys2Proof.Machine
end

