-- ==== Sys2Proof/Machine/Dispatch.lean ====
section
/-! DEFINITION. The dispatch of every constructor of `Instr` to its meaning. -/

namespace Sys2Proof.Machine

/-- One instruction on one state. -/
def exec (i : Instr) (s : State) : Host.Outcome State Fault Refusal :=
  match i with
  -- outbound frame kinds
  | .getStatus cap => Sys2Proof.Machine.execGetStatus cap s
  | .getDeviceInfo cap => Sys2Proof.Machine.execGetDeviceInfo cap s
  | .setMode payload cap => Sys2Proof.Machine.execSetMode payload cap s
  | .setRegister bank address value cap => Sys2Proof.Machine.execSetRegister bank address value cap s
  | .setRegisterGroup triples cap => Sys2Proof.Machine.execSetRegisterGroup triples cap s
  | .setLeds red green blue cap => Sys2Proof.Machine.execSetLeds red green blue cap s
  | .resetBootloader mode cap => Sys2Proof.Machine.execResetBootloader mode cap s
  -- inbound frame kinds
  | .status txid st mo up crc => Sys2Proof.Machine.execStatus txid st mo up crc s
  | .deviceInfo txid hw ma mi sn crc => Sys2Proof.Machine.execDeviceInfo txid hw ma mi sn crc s
  | .coordinate points crc => Sys2Proof.Machine.execCoordinate points crc s
  | .extendedCoordinates records crc => Sys2Proof.Machine.execExtendedCoordinates records crc s
  | .ack txid crc => Sys2Proof.Machine.execAck txid crc s
  | .nack txid reason crc => Sys2Proof.Machine.execNack txid reason crc s
  -- port operations
  | .crcCompute B n => Sys2Proof.Machine.execCrcCompute B n s
  | .crcAppend B n cap => Sys2Proof.Machine.execCrcAppend B n cap s
  | .crcCheck B n => Sys2Proof.Machine.execCrcCheck B n s
  | .rxPush C => Sys2Proof.Machine.execRxPush C s
  | .parseStep => Sys2Proof.Machine.execParseStep s
  | .flush => Sys2Proof.Machine.execFlush s
  | .txnAlloc => Sys2Proof.Machine.execTxnAlloc s
  | .txAssemble k P cap => Sys2Proof.Machine.execTxAssemble k P cap s
  | .txnWait T => Sys2Proof.Machine.execTxnWait T s
  | .readRegs => Sys2Proof.Machine.execReadRegs s
  | .sessionInit => Sys2Proof.Machine.execSessionInit s
  | .reset => Sys2Proof.Machine.execReset s

end Sys2Proof.Machine
end

