-- ==== Sys2Proof/Machine/Agents.lean ====
section
/-! DEFINITION. The agents and their interleaving (spec/60_exceptions.md R185): whose turn it is, what that agent does, and how an
instruction is placed so that the next step runs it. Step.lean only calls these. -/

namespace Sys2Proof.Machine

/-- The draw of a waiter at DECIDE whose turn no schedule names: Timeout once it went on as long as `Config.freePatience` says
(R161; notes/assumptions/3.md). -/
def State.freeDraw (s : State) : Bool := decide (Config.freePatience s.draws.timeouts ≤ s.draws.wentOn)

/-- The n-th waiter's next step is a DECIDE. -/
def State.decides (n : Nat) (s : State) : Bool := s.waiters[n]?.map Waiter.phase == some .decide

/-- The turn taken when the schedule names none (DESIGN CHOICE, notes/assumptions/4.md): an enabled PARSE_STEP, else the next
offered operation, else the first waiter in progress with a free draw, else the SYNC agent, which then has no step. -/
def defaultTurn (s : State) : Turn :=
  if s.syncBusy then .sync
  else if s.offered.isEmpty then
    match s.waiters.findIdx? Waiter.inProgress with
    | some n => .waiter n s.freeDraw
    | none => .sync
  else .host

/-- The state after a turn was chosen for want of a schedule: a DECIDE step uses up one free draw. -/
def afterDefault (t : Turn) (s : State) : State :=
  match t with
  | .waiter n timesOut => if s.decides n then s.countDraw timesOut else s
  | .host => s
  | .sync => s

/-- The turn to be taken now, and the state with that turn used up. -/
def takeTurn (s : State) : Turn × State :=
  match s.sched with
  | t :: l => (t, s.setSched l)
  | [] => (defaultTurn s, afterDefault (defaultTurn s) s)

/-- What an agent does at its turn. An agent with no enabled step lets its turn pass: nothing changes (R191). -/
def runTurn (t : Turn) (s : State) : Host.Outcome State Fault Refusal :=
  match t with
  | .host =>
    match s.offered with
    | [] => .next s
    | i :: q => exec i (s.setOffered q)
  | .sync => if s.syncBusy then exec .parseStep s else .next s
  | .waiter n timesOut => .next (waiterStep n timesOut s)

/-- One step of the run; a run with an ill-formed configuration is refused (R61, R111 a). -/
def runStep (s : State) : Host.Outcome State Fault Refusal :=
  if s.cfg.valid then runTurn (takeTurn s).1 (takeTurn s).2 else .refused .configInvalid

/-- The bytes F stand in the receive buffer, unparsed, and the SYNC agent moves next. -/
def State.placeBytes (F : List Byte) (s : State) : State := ((s.setBuf F).setBusy true).setSched (.sync :: s.sched)

/-- The operation i is offered next, and the host moves next. -/
def State.placeOp (i : Instr) (s : State) : State := (s.setOffered (i :: s.offered)).setSched (.host :: s.sched)

/-- A table word is placed where the block takes its instruction from: an outbound kind on the host's port, anything else in
the receive buffer (notes/assumptions/12.md). -/
def placeWord (s : State) (nbits w : Nat) : State :=
  match decode s.cfg (wordBytes nbits w) with
  | .error _ => s.placeBytes (wordBytes nbits w)
  | .ok d =>
    match d.stamp with
    | none => s.placeBytes (wordBytes nbits w)
    | some _ => s.placeOp d.instr

end Sys2Proof.Machine
end

