-- ==== Sys2Proof/Machine/Step.lean ====
section
/-! DEFINITION. One step of the machine, and placing an instruction for the next step. -/

namespace Sys2Proof.Machine

/-- One atomic step of one agent (spec/60_exceptions.md R185). -/
def step (s : State) : Host.Outcome State Fault Refusal := runStep s

/-- `s` with the instruction of a table word placed so that the next step runs it. -/
def State.withFetchWord (s : State) (nbits w : Nat) : State := placeWord s nbits w

end Sys2Proof.Machine
end

