-- ==== Sys2Proof/Machine/Pseudo.lean ====
section
/-! DEFINITION. The pseudo-operations of spec/30_encoding.md R85 and the frame literal of R84, each by its expansion. -/

namespace Sys2Proof.Machine

/-- `frame(KIND, txid, payload...)` with the CRC filled in (R84, R78); a streaming kind has no txid byte, and `txid` is then not
used (R63). -/
def frameLit (c : Config) (k : Kind) (txid : Byte) (payload : List Byte) : List Byte :=
  sealed (c.kindId k :: (if k.hasTxid then txid :: payload else payload))

/-- PARSE_STEP repeated until `SYNC_BUSY = 0`, at most n times (R85, R120). -/
def parseRun : Nat → State → Outcome
  | 0, s => .next s
  | n + 1, s =>
    if s.syncBusy then
      match execParseStep s with
      | .next t => parseRun n t
      | .fault r => .fault r
      | .refused r => .refused r
    else .next s

/-- `RX_FEED C`: RX_PUSH C, then parse steps to the fixpoint; one more than the bytes held is enough (R85, R120). -/
def rxFeed (C : List Byte) (s : State) : Outcome :=
  match execRxPush C s with
  | .next t => parseRun (t.buf.length + 1) t
  | .fault r => .fault r
  | .refused r => .refused r

/-- `SEND k, P, cap` (R85). -/
def send (k : Kind) (P : List Byte) (cap : Nat) (s : State) : Outcome := exec (.txAssemble k P cap) s

/-- `append_crc(B, n)`, with the buffer's own size as its capacity (R85). -/
def appendCrc (B : List Byte) (n : Nat) (s : State) : Outcome := exec (.crcAppend B n B.length) s

/-- `check_crc(B, n)` (R85). -/
def checkCrc (B : List Byte) (n : Nat) (s : State) : Outcome := exec (.crcCheck B n) s

/-- `next_transaction_id()` (R85). -/
def nextTransactionId (s : State) : Outcome := exec .txnAlloc s

/-- `wait_for_response(T)` (R85). -/
def waitForResponse (T : Byte) (s : State) : Outcome := exec (.txnWait T) s

end Sys2Proof.Machine
end

