-- ==== Sys2Proof/Machine/Runs.lean ====
section
/-! DEFINITION. Runs: the infinite interleavings of spec/60_exceptions.md R185 with the two fairness assumptions (R185, and R161 of
spec/43_transaction.md), and the runs `step` makes of itself. Runs and their fairness are no part of the state: they are what
statements about them take as premises. -/

namespace Sys2Proof.Machine

/-- What the world outside a state chooses at one point of a run: the agent that moves (with its draw, if it is a waiter at
DECIDE), and the operations the host agents newly offer (R185, R186). -/
structure Choice where
  turn : Turn
  offers : List Instr
deriving DecidableEq, Repr

/-- The state with a choice made: the new offers stand behind those still waiting, and the chosen agent moves next. -/
def State.choose (c : Choice) (s : State) : State := (s.setOffered (s.offered ++ c.offers)).setSched [c.turn]

/-- An infinite run: state n + 1 is one step after state n with choice n. An agent chosen with no enabled step lets its turn pass,
so a run that has come to rest goes on in place. -/
def IsRun (states : Nat → State) (choices : Nat → Choice) : Prop :=
  ∀ n, step ((states n).choose (choices n)) = .next (states (n + 1))

/-- R185's fairness: an enabled PARSE_STEP is eventually taken, if it is not disabled before (by a FLUSH, SESSION_INIT or RESET;
DEDUCED, notes/assumptions/6.md). -/
def ParseFair (states : Nat → State) (choices : Nat → Choice) : Prop :=
  ∀ n, ∃ m, n ≤ m ∧ ((states m).syncBusy = false ∨ (choices m).turn = .sync)

/-- R161's fairness: no waiter stays out of DONE for ever. -/
def WaitersFair (states : Nat → State) : Prop :=
  ∀ (n i : Nat) (w : Waiter), (states n).waiters[i]? = some w →
    ∃ (m : Nat) (o : WaitOutcome), n ≤ m ∧ (states m).waiters[i]? = some (Waiter.mk w.target (.done o))

/-- The executions the spec admits: the two fairness assumptions and no other (R185, D30). -/
structure FairRun (states : Nat → State) (choices : Nat → Choice) : Prop where
  run : IsRun states choices
  parse : ParseFair states choices
  waiters : WaitersFair states

/-- n steps of the machine by itself, up to the first stop. -/
def steps : Nat → State → Outcome
  | 0, s => .next s
  | n + 1, s =>
    match step s with
    | .next t => steps n t
    | .fault r => .fault r
    | .refused r => .refused r

end Sys2Proof.Machine
end

