-- ==== Sys2Proof/WellFormed.lean ====
section
/-! DEFINITION. Well-formed instructions: the operands the spec admits, as far as they do not depend on the machine's state
but for its configuration. A frame is well formed if its CRC field is the CRC of its other bytes (spec/30_encoding.md R78).
An ill-formed instruction still has the outcome the spec gives it (a drop, or a refusal by name). -/

namespace Sys2Proof

/-- The frame's last two bytes are the CRC of the bytes before them (R78). -/
def frameValid (F : List Byte) : Bool := Machine.crcMatches F F.length

/-- A payload its kind admits, and a host buffer that holds the frame; for SET_REGISTER_GROUP a smaller buffer is
admitted too and has the zero-length result (R152). -/
def assembleOk (c : Config) (k : OutKind) (P : List Byte) (cap : Nat) : Bool :=
  Machine.payloadOk c k P && (k == .setRegisterGroup || Machine.outLength P ≤ cap)

/-- At most `GROUP_MAX` triples (R167): with more, the count byte of the payload would not be the number of triples. -/
def groupOk (ts : List RegTriple) : Bool := ts.length ≤ groupMax

/-- The well-formed instructions under configuration c. -/
def Instr.wellFormed (c : Config) : Instr → Bool
  | .getStatus cap => assembleOk c .getStatus [] cap
  | .getDeviceInfo cap => assembleOk c .getDeviceInfo [] cap
  | .setMode P cap => assembleOk c .setMode P cap
  | .setRegister b a v cap => assembleOk c .setRegister [b, a, v] cap
  | .setRegisterGroup ts cap => groupOk ts && assembleOk c .setRegisterGroup (groupPayload ts) cap
  | .setLeds r g b cap => assembleOk c .setLeds [r, g, b] cap
  | .resetBootloader m cap => assembleOk c .resetBootloader [m] cap
  | .status t st mo up crc => frameValid (statusBytes c t st mo up crc)
  | .deviceInfo t hw ma mi sn crc => frameValid (deviceInfoBytes c t hw ma mi sn crc)
  | .coordinate ps crc => frameValid (coordinateBytes c ps crc)
  | .extendedCoordinates rs crc => frameValid (extendedCoordinatesBytes c rs crc)
  | .ack t crc => frameValid (ackBytes c t crc)
  | .nack t r crc => frameValid (nackBytes c t r crc)
  | .crcCompute B n => Machine.computeOk B n
  | .crcAppend B n cap => Machine.appendOk B n cap
  | .crcCheck B n => Machine.checkOk B n
  | .rxPush C => Machine.chunkOk C
  | .parseStep => true
  | .flush => true
  | .txnAlloc => true
  | .txAssemble (.inbound _) _ _ => false
  | .txAssemble (.outbound k) P cap => assembleOk c k P cap
  | .txnWait _ => true
  | .readRegs => true
  | .sessionInit => true
  | .reset => true

end Sys2Proof
end

