-- ==== Sys2Proof/Safety.lean ====
section
/-! DEFINITION. What counts as a safe state and a safe run, in the terms the statements use: the fixpoint invariant of the
synchronizer (spec/41_synchronizer.md R119), what every event of the output history is (spec/42_frame_decode.md R130), a run at
rest (spec/60_exceptions.md R192), and runs of parse steps and of allocations. -/

namespace Sys2Proof.Machine

/-- The buffer's state is a fixpoint: empty, or the start of one recognized frame still incomplete (R119). -/
def atFixpoint (c : Config) (B : List Byte) : Prop :=
  B = [] ∨ ∃ b k, B.head? = some b ∧ c.kindOf b = some k ∧ B.length < inboundSize k

/-- The synchronizer's invariant: the buffer fits its capacity (R22), and is at a fixpoint whenever `SYNC_BUSY = 0` (R119). -/
def State.SyncInv (s : State) : Prop :=
  Memory.wf s.cfg.bufCap s.buf = true ∧ (s.syncBusy = false → atFixpoint s.cfg s.buf)

/-- What an `Accept(k, F)` event promises its consumer (R130, R34). -/
def Event.ok (c : Config) (e : Event) : Prop :=
  e.bytes.length = inboundSize e.kind ∧ byteAt e.bytes 0 = c.inboundId e.kind ∧ frameValid e.bytes = true

/-- Every event of the output history is such an event. -/
def State.OutInv (s : State) : Prop := ∀ e ∈ s.out, e.ok s.cfg

/-- A run is at rest (R192): no parse to do, every waiter DONE, no operation offered. -/
def State.AtRest (s : State) : Prop := s.syncBusy = false ∧ s.waiting = false ∧ s.offered = []

/-- The bytes F with bit i flipped; bit i is bit `i % 8` of byte `i / 8` (R105). -/
def flipBit (F : List Byte) (i : Nat) : List Byte := F.set (i / 8) (byteAt F (i / 8) ^^^ (1 <<< (i % 8)))

/-- n parse steps in a row, each enabled and completing. -/
def parseSteps : Nat → State → Option State
  | 0, s => some s
  | n + 1, s =>
    match execParseStep s with
    | .next t => parseSteps n t
    | .fault _ => none
    | .refused _ => none

/-- The transaction ID a result is, if it is TXN_ALLOC's. -/
def Result.allocated : Result → Option Byte
  | .txid t => some t
  | _ => none

/-- n allocations in a row: the transaction IDs they return, read from the results each adds, in order. -/
def allocRun : Nat → State → List Byte
  | 0, _ => []
  | n + 1, s =>
    match exec .txnAlloc s with
    | .next t => (t.results.drop s.results.length).filterMap Result.allocated ++ allocRun n t
    | .fault _ => []
    | .refused _ => []

end Sys2Proof.Machine
end

