-- ==== Sys2Proof/Certificates/Slice0/Obligations.lean ====
section
/-! DEFINITION. The statements about the model, from the spec's numbered rules. A statement marked DERIVED in its docstring
rests on several sections of the spec, or on a choice of the model that its docstring names. `results` is where an operation's
`return v` (spec/00_scope.md R12) is recorded. -/

open Sys2Proof Sys2Proof.Machine

/-! ### The CRC unit -/

/-- R100: the result of CRC_COMPUTE, its refusal, and the algorithm byte by byte. -/
def Obligations.CrcComputeFollowsTheAlgorithm : Prop :=
  (∀ (B : List Byte) (n : Nat) (s : State),
    (n ≤ B.length →
      exec (.crcCompute B n) s = .next { s with results := s.results ++ [.crc (crc16 (B.take n))] }) ∧
    (B.length < n → exec (.crcCompute B n) s = .refused .crcRangeOutsideOperand)) ∧
  crc16 [] = 0xFFFF ∧
  ∀ (B : List Byte) (b : Byte),
    crc16 (B ++ [b]) =
      Nat.iterate (fun c : Half => if c.getLsbD 15 = true then (c <<< 1) ^^^ 0x1021 else c <<< 1) 8
        (crc16 B ^^^ (b.zeroExtend 16 <<< 8))

/-- R102: CRC_APPEND writes the CRC big-endian after the first n bytes, keeps the rest, and refuses what does not fit. -/
def Obligations.CrcAppendWritesTheCrc : Prop :=
  ∀ (B : List Byte) (n cap : Nat) (s : State),
    (n + 2 ≤ cap → B.length = cap →
      exec (.crcAppend B n cap) s =
        .next { s with
          results := s.results ++
            [.appended (B.take n ++ [hi8 (crc16 (B.take n)), lo8 (crc16 (B.take n))] ++ B.drop (n + 2)) (n + 2)] }) ∧
    (cap < n + 2 ∨ B.length ≠ cap → exec (.crcAppend B n cap) s = .refused .crcAppendOverflow)

/-- R103: CRC_CHECK compares the CRC of the first n-2 bytes with the last two of the first n, big-endian. -/
def Obligations.CrcCheckComparesTheCrc : Prop :=
  ∀ (B : List Byte) (n : Nat) (s : State),
    (2 ≤ n → n ≤ B.length →
      exec (.crcCheck B n) s =
        .next { s with
          results := s.results ++
            [.checked (decide (crc16 (B.take (n - 2)) = be16 (byteAt B (n - 2)) (byteAt B (n - 1))))] }) ∧
    (n < 2 ∨ B.length < n → exec (.crcCheck B n) s = .refused .crcCheckLength)

/-- R104: CRC_CHECK answers true exactly when CRC_COMPUTE over the same bytes answers 0x0000. -/
def Obligations.CrcCheckIsTheResidueTest : Prop :=
  ∀ (B : List Byte) (n : Nat) (s : State), 2 ≤ n → n ≤ B.length →
    (exec (.crcCheck B n) s = .next { s with results := s.results ++ [.checked true] } ↔
      exec (.crcCompute B n) s = .next { s with results := s.results ++ [.crc 0x0000] })

/-- R105: what CRC_APPEND writes checks true, and with any single bit of the frame flipped it checks false. -/
def Obligations.CrcDetectsEverySingleBitFlip : Prop :=
  (∀ (B : List Byte) (n : Nat) (s : State), n + 2 ≤ B.length →
    ∃ B', exec (.crcAppend B n B.length) s = .next { s with results := s.results ++ [.appended B' (n + 2)] } ∧
      exec (.crcCheck B' (n + 2)) s = .next { s with results := s.results ++ [.checked true] }) ∧
  ∀ (B : List Byte) (i : Nat) (s : State), i < 8 * (B.length + 2) →
    exec (.crcCheck (flipBit (sealed B) i) (B.length + 2)) s = .next { s with results := s.results ++ [.checked false] }

/-! ### The synchronizer -/

/-- DERIVED, R112 and the hold of R181: RX_PUSH appends and starts parsing, refuses a chunk of a wrong length or one that does not
fit, and while `SYNC_BUSY = 1` stays offered with nothing else changed (that it stays in front of the list of offered operations
is the model's choice, notes/assumptions/13.md). From the invariant, under R111 c, a chunk of admitted length always fits. -/
def Obligations.RxPushAppendsItsChunk : Prop :=
  ∀ (C : List Byte) (s : State),
    (s.syncBusy = true → exec (.rxPush C) s = .next { s with offered := .rxPush C :: s.offered }) ∧
    (s.syncBusy = false → (C = [] ∨ 259 < C.length) → exec (.rxPush C) s = .refused .chunkLength) ∧
    (s.syncBusy = false → C ≠ [] → C.length ≤ 259 → s.cfg.bufCap < s.buf.length + C.length →
      exec (.rxPush C) s = .refused .bufferOverflow) ∧
    (s.syncBusy = false → C ≠ [] → C.length ≤ 259 → s.buf.length + C.length ≤ s.cfg.bufCap →
      exec (.rxPush C) s = .next { s with buf := s.buf ++ C, syncBusy := true }) ∧
    (s.syncBusy = false → s.SyncInv → 517 ≤ s.cfg.bufCap → C ≠ [] → C.length ≤ 259 →
      exec (.rxPush C) s = .next { s with buf := s.buf ++ C, syncBusy := true })

/-- R113 to R118: with `SYNC_BUSY = 1`, PARSE_STEP takes the one outcome its tests choose, and changes what that outcome says and
nothing else. -/
def Obligations.ParseStepTakesOneOfFiveOutcomes : Prop :=
  ∀ s : State, s.syncBusy = true →
    (s.buf = [] →
      exec .parseStep s = .next { s with syncBusy := false, results := s.results ++ [.parsed .haltEmpty] }) ∧
    (∀ b rest, s.buf = b :: rest → (∀ k, s.cfg.inboundId k ≠ b) →
      exec .parseStep s = .next { s with buf := rest, results := s.results ++ [.parsed .dropUnrecognized] }) ∧
    (∀ b rest k, s.buf = b :: rest → s.cfg.kindOf b = some k → s.buf.length < inboundSize k →
      exec .parseStep s = .next { s with syncBusy := false, results := s.results ++ [.parsed .haltIncomplete] }) ∧
    (∀ k F rest, s.buf = F ++ rest → F.length = inboundSize k → s.cfg.kindOf (byteAt F 0) = some k →
      crcMatches F F.length = true →
      exec .parseStep s =
        .next { s with
          buf := rest
          out := s.out ++ [⟨k, F⟩]
          lastAckId := if k = .ack then byteAt F 1 else s.lastAckId
          lastNackId := if k = .nack then byteAt F 1 else s.lastNackId
          lastNackReason := if k = .nack then byteAt F 2 else s.lastNackReason
          results := s.results ++ [.parsed (.accept k)] }) ∧
    (∀ k F rest, s.buf = F ++ rest → F.length = inboundSize k → s.cfg.kindOf (byteAt F 0) = some k →
      crcMatches F F.length = false →
      exec .parseStep s =
        .next { s with buf := s.buf.drop 1, results := s.results ++ [.parsed .dropBadCrc] })

/-- R121: FLUSH empties the buffer and clears `SYNC_BUSY`, at any time, and changes nothing else. -/
def Obligations.FlushEmptiesTheBuffer : Prop :=
  ∀ s : State, exec .flush s = .next { s with buf := [], syncBusy := false }

/-- R119: the fixpoint invariant holds at reset and after FLUSH, and every step keeps it; with `SYNC_BUSY = 0` at most 258 bytes are
held; and no operation clears `SYNC_BUSY` but a parse step that halts at a fixpoint (and those that empty the buffer). -/
def Obligations.StepKeepsTheFixpointInvariant : Prop :=
  (∀ c, (State.resetOf c).SyncInv) ∧
  (∀ s t : State, exec .flush s = .next t → t.SyncInv) ∧
  (∀ s t : State, s.SyncInv → step s = .next t → t.SyncInv) ∧
  (∀ s : State, s.SyncInv → s.syncBusy = false → s.buf.length ≤ 258) ∧
  ∀ (s t : State) (i : Instr), exec i s = .next t → s.syncBusy = true → t.syncBusy = false →
    (i = .parseStep ∧ atFixpoint s.cfg s.buf ∧ t.buf = s.buf ∧
      (t.results = s.results ++ [.parsed .haltEmpty] ∨ t.results = s.results ++ [.parsed .haltIncomplete])) ∨
    ((i = .flush ∨ i = .sessionInit ∨ i = .reset) ∧ t.buf = [])

/-- DERIVED: both invariants hold at the state after reset, for every configuration, and so at `State.reset`. -/
def Obligations.ResetMeetsTheInvariants : Prop :=
  (∀ c : Config, (State.resetOf c).SyncInv ∧ (State.resetOf c).OutInv) ∧ State.reset.SyncInv ∧ State.reset.OutInv

/-- DERIVED, R130 and R34: every event of the output history is a whole frame of its kind with a valid CRC, and every step keeps it
so. -/
def Obligations.StepKeepsEventsValidFrames : Prop :=
  ∀ s t : State, s.OutInv → step s = .next t → t.OutInv

/-- R120: an enabled PARSE_STEP always completes; unless it halts it removes at least one byte; so a fixpoint is reached in at most
one parse step more than the bytes held. -/
def Obligations.ParsingReachesAFixpoint : Prop :=
  (∀ s : State, s.syncBusy = true → ∃ t, exec .parseStep s = .next t) ∧
  (∀ s t : State, exec .parseStep s = .next t → t.syncBusy = true → t.buf.length < s.buf.length) ∧
  ∀ s : State, s.syncBusy = true →
    ∃ n t, n ≤ s.buf.length + 1 ∧ parseSteps n s = some t ∧ t.syncBusy = false

/-- DERIVED, R124: bytes that are no recognized ID in front of a valid frame are dropped one at a time, and the frame is then
accepted. -/
def Obligations.GarbageBeforeAFrameIsDropped : Prop :=
  ∀ (s : State) (k : InKind) (G F rest : List Byte),
    s.syncBusy = true → s.buf = G ++ F ++ rest → (∀ b ∈ G, ∀ k', s.cfg.inboundId k' ≠ b) →
    F.length = inboundSize k → s.cfg.kindOf (byteAt F 0) = some k → frameValid F = true →
    ∃ t, parseSteps (G.length + 1) s = some t ∧ t.buf = rest ∧ t.out = s.out ++ [⟨k, F⟩] ∧ t.syncBusy = true

/-- DERIVED, R123: a frame delivered in two chunks is accepted once, by the parse run of the second, and no byte of the first is
lost. -/
def Obligations.SplitFrameIsAcceptedOnce : Prop :=
  ∀ (s : State) (k : InKind) (A B : List Byte),
    s.syncBusy = false → s.buf = [] → 517 ≤ s.cfg.bufCap → A ≠ [] → B ≠ [] → (A ++ B).length = inboundSize k →
    s.cfg.kindOf (byteAt (A ++ B) 0) = some k → frameValid (A ++ B) = true →
    ∃ t, rxFeed A s = .next t ∧ t.out = s.out ∧ t.buf = A ∧ t.syncBusy = false ∧
      ∃ u, rxFeed B t = .next u ∧ u.out = s.out ++ [⟨k, A ++ B⟩] ∧ u.buf = [] ∧ u.syncBusy = false

/-- DERIVED, R125: a valid frame at the front of the buffer is never dropped: held while bytes are missing, accepted when they are
all there. -/
def Obligations.ValidFrameAtTheFrontIsNeverDropped : Prop :=
  ∀ (s t : State) (k : InKind) (F A Z rest : List Byte),
    s.cfg.kindOf (byteAt F 0) = some k → F.length = inboundSize k → frameValid F = true →
    exec .parseStep s = .next t →
    (s.buf = F ++ rest → t.buf = rest ∧ t.out = s.out ++ [⟨k, F⟩]) ∧
    (s.buf = A → F = A ++ Z → A ≠ [] → Z ≠ [] → t.buf = s.buf ∧ t.out = s.out ∧ t.syncBusy = false)

/-! ### Inbound frames -/

/-- R131: a valid STATUS frame at the front is accepted with no register effect, and its consumer reads these fields. -/
def Obligations.StatusFrameIsAccepted : Prop :=
  ∀ (s : State) (txid st mo : Byte) (up : Long) (crc : Half) (rest : List Byte),
    s.cfg.valid = true → s.syncBusy = true → s.buf = statusBytes s.cfg txid st mo up crc ++ rest →
    frameValid (statusBytes s.cfg txid st mo up crc) = true →
    exec (.status txid st mo up crc) s =
      .next { s with
        buf := rest
        out := s.out ++ [⟨.status, statusBytes s.cfg txid st mo up crc⟩]
        results := s.results ++ [.parsed (.accept .status)] } ∧
    decodeStatus (statusBytes s.cfg txid st mo up crc) = ⟨txid, st, mo, up⟩ ∧
    (nonIdle mo = true ↔ mo ≠ Config.camModeCode .idle)

/-- R132: a valid DEVICE_INFO frame at the front is accepted with no register effect, and its consumer reads these fields. -/
def Obligations.DeviceInfoFrameIsAccepted : Prop :=
  ∀ (s : State) (txid hw ma mi : Byte) (sn : Long) (crc : Half) (rest : List Byte),
    s.cfg.valid = true → s.syncBusy = true → s.buf = deviceInfoBytes s.cfg txid hw ma mi sn crc ++ rest →
    frameValid (deviceInfoBytes s.cfg txid hw ma mi sn crc) = true →
    exec (.deviceInfo txid hw ma mi sn crc) s =
      .next { s with
        buf := rest
        out := s.out ++ [⟨.deviceInfo, deviceInfoBytes s.cfg txid hw ma mi sn crc⟩]
        results := s.results ++ [.parsed (.accept .deviceInfo)] } ∧
    decodeDeviceInfo (deviceInfoBytes s.cfg txid hw ma mi sn crc) = ⟨txid, hw, ma, mi, sn⟩

/-- R133: a valid COORDINATE frame at the front is accepted with no register effect, and its consumer reads the sixteen slots,
each detected exactly if its brightness is not 0. -/
def Obligations.CoordinateFrameIsAccepted : Prop :=
  ∀ (s : State) (ps : Vector Point 16) (crc : Half) (rest : List Byte),
    s.cfg.valid = true → s.syncBusy = true → s.buf = coordinateBytes s.cfg ps crc ++ rest →
    frameValid (coordinateBytes s.cfg ps crc) = true →
    exec (.coordinate ps crc) s =
      .next { s with
        buf := rest
        out := s.out ++ [⟨.coordinate, coordinateBytes s.cfg ps crc⟩]
        results := s.results ++ [.parsed (.accept .coordinate)] } ∧
    decodeCoordinate (coordinateBytes s.cfg ps crc) =
      ps.toList.map fun p => ⟨p.x, p.y, p.brightness, decide (p.brightness ≠ 0)⟩

/-- R134: a valid EXTENDED_COORDINATES frame at the front is accepted with no register effect, and its consumer reads the sixteen
records with the coordinates' low 14 bits. -/
def Obligations.ExtendedCoordinatesFrameIsAccepted : Prop :=
  ∀ (s : State) (rs : Vector ExtRecord 16) (crc : Half) (rest : List Byte),
    s.cfg.valid = true → s.syncBusy = true → s.buf = extendedCoordinatesBytes s.cfg rs crc ++ rest →
    frameValid (extendedCoordinatesBytes s.cfg rs crc) = true →
    exec (.extendedCoordinates rs crc) s =
      .next { s with
        buf := rest
        out := s.out ++ [⟨.extendedCoordinates, extendedCoordinatesBytes s.cfg rs crc⟩]
        results := s.results ++ [.parsed (.accept .extendedCoordinates)] } ∧
    decodeExtendedCoordinates (extendedCoordinatesBytes s.cfg rs crc) =
      rs.toList.map fun r =>
        ⟨r.area, r.rawX &&& 0x3FFF, r.rawY &&& 0x3FFF, r.averageBrightness, r.maximumBrightness, r.range, r.radius,
          [r.boundary0, r.boundary1, r.boundary2, r.boundary3], r.aspectRatio, r.vx, r.vy⟩

/-- R135: a valid ACK frame at the front is accepted and sets `LAST_ACK_ID` to its txid, whatever it was, and no other register. -/
def Obligations.AckFrameSetsLastAckId : Prop :=
  ∀ (s : State) (txid : Byte) (crc : Half) (rest : List Byte),
    s.cfg.valid = true → s.syncBusy = true → s.buf = ackBytes s.cfg txid crc ++ rest →
    frameValid (ackBytes s.cfg txid crc) = true →
    exec (.ack txid crc) s =
      .next { s with
        buf := rest
        lastAckId := txid
        out := s.out ++ [⟨.ack, ackBytes s.cfg txid crc⟩]
        results := s.results ++ [.parsed (.accept .ack)] } ∧
    decodeAck (ackBytes s.cfg txid crc) = txid

/-- R136: a valid NACK frame at the front is accepted and sets the NACK pair to its txid and reason, in one step, and no other
register; an ACK does not change the pair. -/
def Obligations.NackFrameSetsTheNackPair : Prop :=
  (∀ (s t : State) (txid : Byte) (crc : Half), exec (.ack txid crc) s = .next t →
    t.lastNackId = s.lastNackId ∧ t.lastNackReason = s.lastNackReason) ∧
  ∀ (s : State) (txid reason : Byte) (crc : Half) (rest : List Byte),
    s.cfg.valid = true → s.syncBusy = true → s.buf = nackBytes s.cfg txid reason crc ++ rest →
    frameValid (nackBytes s.cfg txid reason crc) = true →
    exec (.nack txid reason crc) s =
      .next { s with
        buf := rest
        lastNackId := txid
        lastNackReason := reason
        out := s.out ++ [⟨.nack, nackBytes s.cfg txid reason crc⟩]
        results := s.results ++ [.parsed (.accept .nack)] } ∧
    decodeNack (nackBytes s.cfg txid reason crc) = (txid, reason)

/-- DERIVED, R118 and R126: a frame of any inbound kind whose CRC field is wrong loses its ID byte and nothing else. -/
def Obligations.CorruptedFrameLosesOneByte : Prop :=
  ∀ (s : State) (i : Instr) (k : InKind) (F rest : List Byte),
    s.cfg.valid = true → s.syncBusy = true → i.inFrame s.cfg = some (k, F) → s.buf = F ++ rest → frameValid F = false →
    exec i s = .next { s with buf := s.buf.drop 1, results := s.results ++ [.parsed .dropBadCrc] }

/-- DERIVED, R113: PARSE_STEP and the inbound frames have no step while `SYNC_BUSY = 0`, and a frame has none unless it is the
window at the front (the named stops are the model's, notes/assumptions/8.md). -/
def Obligations.FramesRunOnlyAtTheFront : Prop :=
  ∀ (s : State) (i : Instr),
    (s.syncBusy = false → i = .parseStep ∨ (i.inFrame s.cfg).isSome = true →
      exec i s = .fault .parseStepNotEnabled) ∧
    (∀ k F, s.syncBusy = true → i.inFrame s.cfg = some (k, F) → s.buf.take (inboundSize k) ≠ F →
      exec i s = .fault .frameNotAtFront)

/-! ### Steps -/

/-- DERIVED: a step runs the instruction the decoder reads at the front of the buffer, at the SYNC agent's turn, and the operation
offered first, at the host's; a waiter's turn is that waiter's step. At the SYNC agent's turn with `SYNC_BUSY = 1` step is PARSE_STEP,
whatever stands at the front; an agent with no enabled step lets its turn pass. Around `exec` a step only uses up the turn and the
offer, and a DECIDE with no scheduled turn one free draw (notes/assumptions/3.md). The turn taken when the schedule names none is
the model's choice (notes/assumptions/4.md). -/
def Obligations.StepRunsTheDecodedInstruction : Prop :=
  ∀ s : State, s.cfg.valid = true →
    (∀ d l, s.sched = .sync :: l → s.syncBusy = true → decodeInbound s.cfg s.buf = .ok d →
      step s = exec d.instr { s with sched := l }) ∧
    (∀ d, s.sched = [] → s.syncBusy = true → decodeInbound s.cfg s.buf = .ok d → step s = exec d.instr s) ∧
    (∀ i q l, s.sched = .host :: l → s.offered = i :: q → step s = exec i { s with sched := l, offered := q }) ∧
    (∀ i q, s.sched = [] → s.syncBusy = false → s.offered = i :: q → step s = exec i { s with offered := q }) ∧
    (∀ n d l, s.sched = .waiter n d :: l → step s = .next (waiterStep n d { s with sched := l })) ∧
    (∀ l, s.sched = .sync :: l → s.syncBusy = true → step s = exec .parseStep { s with sched := l }) ∧
    (s.sched = [] → s.syncBusy = true → step s = exec .parseStep s) ∧
    (∀ l, s.sched = .sync :: l → s.syncBusy = false → step s = .next { s with sched := l }) ∧
    (∀ l, s.sched = .host :: l → s.offered = [] → step s = .next { s with sched := l }) ∧
    (∀ n, s.sched = [] → s.syncBusy = false → s.offered = [] → s.waiters.findIdx? Waiter.inProgress = some n →
      step s = .next (waiterStep n s.freeDraw (if s.decides n then s.countDraw s.freeDraw else s)))

/-- R61: a frame's byte 0 is its kind's ID; 0x02 is STATUS's; a configuration is well formed exactly if no two inbound kinds share
an ID, whatever the outbound IDs are; one that is not is refused. -/
def Obligations.SharedKindIdsAreRefused : Prop :=
  (∀ c : Config, c.inboundId .status = 0x02) ∧
  (∀ (c : Config) (i : Instr) (k : InKind) (F : List Byte), i.inFrame c = some (k, F) → byteAt F 0 = c.inboundId k) ∧
  (∀ (c : Config) (st : Stamp) (i : Instr) (k : OutKind) (P F : List Byte),
    i.outPayload = some (k, P) → encode c st i = some F → byteAt F 0 = c.outboundId k) ∧
  (∀ c : Config, c.valid = true ↔ ∀ k k', c.inboundId k = c.inboundId k' → k = k') ∧
  ∀ s : State, s.cfg.valid = false → step s = .refused .configInvalid

/-- R64: a byte is recognized exactly if it is the ID of one of the six inbound kinds, and `kind_of` is that kind. -/
def Obligations.RecognizedBytesAreTheSixInboundIds : Prop :=
  ∀ (c : Config) (b : Byte), c.valid = true →
    (∀ k, c.kindOf b = some k ↔ c.inboundId k = b) ∧ (c.kindOf b = none ↔ ∀ k, c.inboundId k ≠ b)

/-! ### Encoding -/

/-- DERIVED, R65 to R70: decoding an encoded inbound frame gives it back, for every field at every value, whatever follows. -/
def Obligations.DecodeOfEncodeInbound : Prop :=
  ∀ (c : Config) (st : Stamp) (i : Instr) (k : InKind) (F rest : List Byte),
    c.valid = true → i.inFrame c = some (k, F) →
    encode c st i = some F ∧ F.length = inboundSize k ∧ decode c (F ++ rest) = .ok ⟨i, none, rest⟩

/-- DERIVED, R65 to R70: encoding what was decoded from a window gives the window's bytes back. -/
def Obligations.EncodeOfDecodeInbound : Prop :=
  ∀ (c : Config) (st : Stamp) (B : List Byte) (d : Decoded), decodeInbound c B = .ok d →
    ∃ F, encode c st d.instr = some F ∧ F ++ d.rest = B

/-- DERIVED, R71 to R76: decoding an encoded outbound frame gives its payload, its txid and its CRC back; the host buffer is taken to
be the frame's size (notes/assumptions/10.md). The premise says that the kind's ID is no inbound kind's and no other outbound
kind's. -/
def Obligations.DecodeOfEncodeOutbound : Prop :=
  ∀ (c : Config) (st : Stamp) (i : Instr) (k : OutKind) (P F rest : List Byte),
    i.outPayload = some (k, P) → i.wellFormed c = true → encode c st i = some F →
    c.kindOf (c.outboundId k) = none → c.outKindOf (c.outboundId k) = some k →
    F.length = c.outboundSize (byteAt P 0).toNat k ∧
    ∃ j, decode c (F ++ rest) = .ok ⟨j, some st, rest⟩ ∧ j.outPayload = some (k, P) ∧ encode c st j = some F

/-- DERIVED, R80: the twelve port operations have no binary encoding, and no bytes decode to one. -/
def Obligations.PortOperationsHaveNoEncoding : Prop :=
  ∀ (c : Config) (st : Stamp) (i : Instr), i.inFrame c = none → i.outPayload = none →
    encode c st i = none ∧ ∀ (B : List Byte) (d : Decoded), decode c B = .ok d → d.instr ≠ i

/-- DERIVED, sanity: words written out from R65, R69, R70, R71, R73 decode to the instruction they stand for. The kind IDs are the
test configuration's (notes/assumptions/2.md); that the two outbound words give a host buffer of the frame's size and a stamp
beside the instruction is the model's choice (notes/assumptions/10.md). -/
def Obligations.WordsOfTheSpecDecode : Prop :=
  decode Config.testConfig [0x02, 0x05, 0x03, 0x01, 0x00, 0x00, 0x01, 0x2C, 0x75, 0x51] =
    .ok ⟨.status 0x05 0x03 0x01 300 0x7551, none, []⟩ ∧
  decode Config.testConfig [0x10, 0x05, 0x4E, 0xD9] = .ok ⟨.ack 0x05 0x4ED9, none, []⟩ ∧
  decode Config.testConfig [0x11, 0x02, 0x07, 0xAE, 0x4A] = .ok ⟨.nack 0x02 0x07 0xAE4A, none, []⟩ ∧
  decode Config.testConfig [0x20, 0x00, 0x1B, 0xE9] = .ok ⟨.getStatus 4, some ⟨0x00, 0x1BE9⟩, []⟩ ∧
  decode Config.testConfig [0x23, 0x05, 0x01, 0x20, 0xFF, 0x64, 0x09] =
    .ok ⟨.setRegister 0x01 0x20 0xFF 7, some ⟨0x05, 0x6409⟩, []⟩

/-- DERIVED, R11 and R42: big-endian assembly as numbers, and the bytes of a field back. -/
def Obligations.FieldsAreBigEndian : Prop :=
  (∀ a b : Byte, (be16 a b).toNat = a.toNat * 256 + b.toNat) ∧
  (∀ a b c d : Byte, (be32 a b c d).toNat = a.toNat * 2 ^ 24 + b.toNat * 2 ^ 16 + c.toNat * 2 ^ 8 + d.toNat) ∧
  (∀ v : Half, be16 (hi8 v) (lo8 v) = v) ∧
  ∀ a b c d : Byte, bytes32 (be32 a b c d) = [a, b, c, d]

/-! ### The transaction matcher -/

/-- R150: TXN_ALLOC returns the counter and advances it by one modulo 256, and changes nothing else. -/
def Obligations.TxnAllocReturnsAndAdvances : Prop :=
  ∀ s : State,
    exec .txnAlloc s =
      .next { s with
        txnCtr := BitVec.ofNat 8 ((s.txnCtr.toNat + 1) % 256)
        results := s.results ++ [.txid s.txnCtr] }

/-- DERIVED, R55: any 256 consecutive allocations return 256 distinct values, and the 257th returns the first again; the values
are read from the results. -/
def Obligations.AllocationsRepeatAfter256 : Prop :=
  ∀ s : State, (allocRun 256 s).length = 256 ∧ (allocRun 256 s).Nodup ∧ (allocRun 257 s).length = 257 ∧
    (allocRun 257 s)[256]? = (allocRun 257 s)[0]?

/-- R152: TX_ASSEMBLE tests the kind, then the payload, then the capacity; a frame is the kind's ID, the counter, the payload and the
CRC, and only then does the counter advance. -/
def Obligations.TxAssembleBuildsTheFrame : Prop :=
  ∀ (s : State) (P : List Byte) (cap : Nat),
    (∀ k, exec (.txAssemble (.inbound k) P cap) s = .refused .notOutbound) ∧
    ∀ k,
      (payloadOk s.cfg k P = false → exec (.txAssemble (.outbound k) P cap) s = .refused .payloadShape) ∧
      (payloadOk s.cfg k P = true → k = .setRegisterGroup → cap < P.length + 4 →
        exec (.txAssemble (.outbound k) P cap) s = .next { s with results := s.results ++ [.assembled [] 0 none] }) ∧
      (payloadOk s.cfg k P = true → k ≠ .setRegisterGroup → cap < P.length + 4 →
        exec (.txAssemble (.outbound k) P cap) s = .refused .txBufferTooSmall) ∧
      (payloadOk s.cfg k P = true → P.length + 4 ≤ cap →
        exec (.txAssemble (.outbound k) P cap) s =
          .next { s with
            txnCtr := s.txnCtr + 1
            results := s.results ++
              [.assembled ([s.cfg.outboundId k, s.txnCtr] ++ P ++ bytes16 (crc16 ([s.cfg.outboundId k, s.txnCtr] ++ P)))
                (P.length + 4) (some s.txnCtr)] })

/-- DERIVED, R163, R164, R166, R168, R169, R152: payload shapes and frames of the five kinds of fixed size but SET_MODE, and their
refusal in a host buffer that is too small. -/
def Obligations.FixedKindsBuildTheirFrames : Prop :=
  ∀ (s : State) (cap : Nat),
    (∀ P, (payloadOk s.cfg .getStatus P = true ↔ P = []) ∧ (payloadOk s.cfg .getDeviceInfo P = true ↔ P = []) ∧
      (payloadOk s.cfg .setRegister P = true ↔ ∃ b a v, P = [b, a, v]) ∧
      (payloadOk s.cfg .setLeds P = true ↔ ∃ r g b, P = [r, g, b]) ∧
      (payloadOk s.cfg .resetBootloader P = true ↔ ∃ m, P = [m])) ∧
    (cap < 4 → exec (.getStatus cap) s = .refused .txBufferTooSmall ∧
      exec (.getDeviceInfo cap) s = .refused .txBufferTooSmall) ∧
    (∀ b a v, cap < 7 → exec (.setRegister b a v cap) s = .refused .txBufferTooSmall ∧
      exec (.setLeds b a v cap) s = .refused .txBufferTooSmall) ∧
    (∀ m, cap < 5 → exec (.resetBootloader m cap) s = .refused .txBufferTooSmall) ∧
    (4 ≤ cap →
      exec (.getStatus cap) s =
        .next { s with
          txnCtr := s.txnCtr + 1
          results := s.results ++ [.assembled (sealed [s.cfg.idGetStatus, s.txnCtr]) 4 (some s.txnCtr)] }) ∧
    (4 ≤ cap →
      exec (.getDeviceInfo cap) s =
        .next { s with
          txnCtr := s.txnCtr + 1
          results := s.results ++ [.assembled (sealed [s.cfg.idGetDeviceInfo, s.txnCtr]) 4 (some s.txnCtr)] }) ∧
    (∀ b a v, 7 ≤ cap →
      exec (.setRegister b a v cap) s =
        .next { s with
          txnCtr := s.txnCtr + 1
          results := s.results ++ [.assembled (sealed [s.cfg.idSetRegister, s.txnCtr, b, a, v]) 7 (some s.txnCtr)] }) ∧
    (∀ r g b, 7 ≤ cap →
      exec (.setLeds r g b cap) s =
        .next { s with
          txnCtr := s.txnCtr + 1
          results := s.results ++ [.assembled (sealed [s.cfg.idSetLeds, s.txnCtr, r, g, b]) 7 (some s.txnCtr)] }) ∧
    (∀ m, 5 ≤ cap →
      exec (.resetBootloader m cap) s =
        .next { s with
          txnCtr := s.txnCtr + 1
          results := s.results ++ [.assembled (sealed [s.cfg.idResetBootloader, s.txnCtr, m]) 5 (some s.txnCtr)] })

/-- R165: SET_MODE takes `SET_MODE_LEN - 4` opaque bytes, 3 or 2, and is 7 or 6 bytes long. -/
def Obligations.SetModeBuildsItsFrame : Prop :=
  ∀ (s : State) (P : List Byte) (cap : Nat),
    (payloadOk s.cfg .setMode P = true ↔ P.length = if s.cfg.setModeLen = .seven then 3 else 2) ∧
    (payloadOk s.cfg .setMode P = true → P.length + 4 ≤ cap →
      exec (.setMode P cap) s =
        .next { s with
          txnCtr := s.txnCtr + 1
          results := s.results ++
            [.assembled (sealed ([s.cfg.idSetMode, s.txnCtr] ++ P)) s.cfg.setModeLen.bytes (some s.txnCtr)] }) ∧
    (payloadOk s.cfg .setMode P = true → cap < P.length + 4 → exec (.setMode P cap) s = .refused .txBufferTooSmall) ∧
    (payloadOk s.cfg .setMode P = false → exec (.setMode P cap) s = .refused .payloadShape)

/-- R167: SET_REGISTER_GROUP takes a count of at most 19 and that many triples; a buffer too small gives the zero-length result, more
than 19 triples are refused. -/
def Obligations.SetRegisterGroupBuildsItsFrame : Prop :=
  ∀ (s : State) (ts : List RegTriple) (cap : Nat),
    (∀ P, payloadOk s.cfg .setRegisterGroup P = true ↔ ∃ us : List RegTriple, us.length ≤ 19 ∧ P = groupPayload us) ∧
    (19 < ts.length → exec (.setRegisterGroup ts cap) s = .refused .payloadShape) ∧
    (ts.length ≤ 19 → cap < 3 + 3 * ts.length + 2 →
      exec (.setRegisterGroup ts cap) s = .next { s with results := s.results ++ [.assembled [] 0 none] }) ∧
    (ts.length ≤ 19 → 3 + 3 * ts.length + 2 ≤ cap →
      exec (.setRegisterGroup ts cap) s =
        .next { s with
          txnCtr := s.txnCtr + 1
          results := s.results ++
            [.assembled
              (sealed ([s.cfg.idSetRegisterGroup, s.txnCtr, BitVec.ofNat 8 ts.length] ++
                (ts.map fun t => [t.bank, t.address, t.value]).flatten))
              (3 + 3 * ts.length + 2) (some s.txnCtr)] })

/-- DERIVED, R62, R78 and R152: every frame TX_ASSEMBLE returns has its kind's size, its kind's ID first, and passes CRC_CHECK over
its whole length. -/
def Obligations.AssembledFramesPassTheCheck : Prop :=
  ∀ (s t : State) (k : OutKind) (P F : List Byte) (cap len : Nat) (id : Byte),
    exec (.txAssemble (.outbound k) P cap) s = .next t → t.results = s.results ++ [.assembled F len (some id)] →
    len = F.length ∧ F.length = s.cfg.outboundSize (byteAt P 0).toNat k ∧ byteAt F 0 = s.cfg.outboundId k ∧
      byteAt F 1 = id ∧ frameValid F = true

/-- DERIVED, R29 and R157: TXN_WAIT starts a waiter for T at the first phase of its loop, and changes nothing else. That it only
starts the waiter, and that the first phase is CHECK_ACK under ACK_FIRST, is the model's reading (notes/assumptions/14.md). -/
def Obligations.TxnWaitStartsAWaiter : Prop :=
  ∀ (s : State) (T : Byte),
    (s.cfg.waitCheckOrder = .nackFirst →
      exec (.txnWait T) s = .next { s with waiters := s.waiters ++ [⟨T, .checkNack⟩] }) ∧
    (s.cfg.waitCheckOrder = .ackFirst →
      exec (.txnWait T) s = .next { s with waiters := s.waiters ++ [⟨T, .checkAck⟩] })

/-- DERIVED, R158, R159, R160: the three steps of a waiter, under both values of `WAIT_CHECK_ORDER`. Where the steps lead under
ACK_FIRST is the model's reading of R160 (notes/assumptions/14.md). -/
def Obligations.WaiterStepsFollowTheLoop : Prop :=
  ∀ (s : State) (l : List Turn) (n : Nat) (T : Byte) (d : Bool),
    s.cfg.valid = true → s.sched = .waiter n d :: l →
    (s.waiters[n]? = some ⟨T, .checkNack⟩ →
      (s.lastNackId = T →
        step s = .next { s with
          sched := l
          waiters := s.waiters.set n ⟨T, .done .rejected⟩
          results := s.results ++ [.waited T .rejected] }) ∧
      (s.lastNackId ≠ T →
        step s = .next { s with
          sched := l
          waiters := s.waiters.set n ⟨T, if s.cfg.waitCheckOrder = .nackFirst then .checkAck else .decide⟩ })) ∧
    (s.waiters[n]? = some ⟨T, .checkAck⟩ →
      (T.toNat ≤ s.lastAckId.toNat →
        step s = .next { s with
          sched := l
          waiters := s.waiters.set n ⟨T, .done .success⟩
          results := s.results ++ [.waited T .success] }) ∧
      (s.lastAckId.toNat < T.toNat →
        step s = .next { s with
          sched := l
          waiters := s.waiters.set n ⟨T, if s.cfg.waitCheckOrder = .nackFirst then .decide else .checkNack⟩ })) ∧
    (s.waiters[n]? = some ⟨T, .decide⟩ →
      (d = true →
        step s = .next { s with
          sched := l
          waiters := s.waiters.set n ⟨T, .done .timeout⟩
          results := s.results ++ [.waited T .timeout] }) ∧
      (d = false →
        step s = .next { s with
          sched := l
          waiters := s.waiters.set n ⟨T, if s.cfg.waitCheckOrder = .nackFirst then .checkNack else .checkAck⟩ }))

/-- DERIVED, R29 and R156: a waiter's turn always gives a next state and changes no register, no buffer, no event and no other
waiter; a waiter that has returned changes nothing at all. -/
def Obligations.WaitersChangeNoRegister : Prop :=
  ∀ (s : State) (l : List Turn) (n : Nat) (d : Bool), s.cfg.valid = true → s.sched = .waiter n d :: l →
    ∃ t, step s = .next t ∧ (∀ a, t.buf.byte a = s.buf.byte a) ∧ t.syncBusy = s.syncBusy ∧ t.txnCtr = s.txnCtr ∧
      t.lastAckId = s.lastAckId ∧ t.lastNackId = s.lastNackId ∧ t.lastNackReason = s.lastNackReason ∧ t.out = s.out ∧
      t.offered = s.offered ∧ t.waiters.map Waiter.target = s.waiters.map Waiter.target ∧
      (∀ m, m ≠ n → t.waiters[m]? = s.waiters[m]?) ∧
      (∀ T o, s.waiters[n]? = some ⟨T, .done o⟩ → t = { s with sched := l })

/-- DERIVED, R154, R155, R157: whatever step returns a wait's outcome, Success only with `LAST_ACK_ID >= T` and Rejected only with
`LAST_NACK_ID = T` at that step. -/
def Obligations.WaitOutcomesRestOnTheLastSeenRegisters : Prop :=
  ∀ (s t : State) (T : Byte) (o : WaitOutcome), step s = .next t → t.results = s.results ++ [.waited T o] →
    (o = .success → T.toNat ≤ s.lastAckId.toNat) ∧ (o = .rejected → s.lastNackId = T) ∧
    t.lastAckId = s.lastAckId ∧ t.lastNackId = s.lastNackId

/-- R155: the two comparisons, with no window; in particular only `LAST_ACK_ID = 0xFF` acknowledges 0xFF. -/
def Obligations.ComparisonsAreWrapUnaware : Prop :=
  ∀ r T : Byte, (nackTest r T = true ↔ r = T) ∧ (ackTest r T = true ↔ T.toNat ≤ r.toNat) ∧
    (ackTest r 0xFF = true ↔ r = 0xFF)

/-- R30: READ_REGS returns the four values of one instant and writes nothing; and the NACK pair is always one NACK's pair: a step
leaves both halves, or writes both from one accepted NACK frame, or clears both. -/
def Obligations.ReadRegsReturnsOneInstant : Prop :=
  (∀ s : State,
    exec .readRegs s =
      .next { s with results := s.results ++ [.regs s.lastAckId s.lastNackId s.lastNackReason s.syncBusy] }) ∧
  ∀ s t : State, step s = .next t →
    (t.lastNackId = s.lastNackId ∧ t.lastNackReason = s.lastNackReason) ∨
    (∃ F, t.out = s.out ++ [⟨.nack, F⟩] ∧ t.lastNackId = byteAt F 1 ∧ t.lastNackReason = byteAt F 2) ∨
    (t.lastNackId = 0x00 ∧ t.lastNackReason = 0x00)

/-- DERIVED, R25, R26, R27, R51: a step that changes a last-seen register accepts a frame of that register's kind, whose bytes give
the new value, or clears the three (RESET, SESSION_INIT). -/
def Obligations.OnlyAcceptedFramesWriteLastSeen : Prop :=
  ∀ s t : State, step s = .next t →
    (t.lastAckId = s.lastAckId ∨ (∃ F, t.out = s.out ++ [⟨.ack, F⟩] ∧ t.lastAckId = byteAt F 1) ∨
      (t.lastAckId = 0x00 ∧ t.lastNackId = 0x00 ∧ t.lastNackReason = 0x00 ∧ t.buf = [] ∧ t.syncBusy = false)) ∧
    ((t.lastNackId = s.lastNackId ∧ t.lastNackReason = s.lastNackReason) ∨
      (∃ F, t.out = s.out ++ [⟨.nack, F⟩] ∧ t.lastNackId = byteAt F 1 ∧ t.lastNackReason = byteAt F 2) ∨
      (t.lastAckId = 0x00 ∧ t.lastNackId = 0x00 ∧ t.lastNackReason = 0x00 ∧ t.buf = [] ∧ t.syncBusy = false))

/-- DERIVED, R24: a step leaves `TXN_CTR`, advances it by one (returning the old value as a txid), or sets it to `TXN_CTR_INIT` with
the buffer and the last-seen registers cleared (RESET). -/
def Obligations.OnlyAllocationAdvancesTxnCtr : Prop :=
  ∀ s t : State, step s = .next t →
    t.txnCtr = s.txnCtr ∨
    (t.txnCtr = s.txnCtr + 1 ∧
      (t.results = s.results ++ [.txid s.txnCtr] ∨
        ∃ F len, t.results = s.results ++ [.assembled F len (some s.txnCtr)])) ∨
    (t.txnCtr = s.cfg.txnCtrInit ∧ t.buf = [] ∧ t.lastAckId = 0x00 ∧ t.lastNackId = 0x00 ∧ t.lastNackReason = 0x00)

/-- DERIVED, R56: no step changes the configuration. -/
def Obligations.ConfigurationIsFixed : Prop := ∀ s t : State, step s = .next t → t.cfg = s.cfg

/-- DERIVED, R34 and R192: the output history and the results only grow, by at most one entry a step. -/
def Obligations.HistoriesOnlyGrow : Prop :=
  ∀ s t : State, step s = .next t →
    (∃ es, t.out = s.out ++ es ∧ es.length ≤ 1) ∧ ∃ rs, t.results = s.results ++ rs ∧ rs.length ≤ 1

/-- DERIVED, R40 and R46: what a step can do to the buffer: nothing, one byte or one frame off its front, one chunk of 1 to 259 bytes
onto its back while `SYNC_BUSY = 0`, or empty it. -/
def Obligations.BufferChangesOnlyAtItsEnds : Prop :=
  ∀ s t : State, step s = .next t →
    t.buf = s.buf ∨ t.buf = s.buf.drop 1 ∨
    (∃ k F, s.buf = F ++ t.buf ∧ F.length = inboundSize k ∧ t.out = s.out ++ [⟨k, F⟩]) ∨
    (∃ C, t.buf = s.buf ++ C ∧ 1 ≤ C.length ∧ C.length ≤ 259 ∧ s.syncBusy = false ∧ t.syncBusy = true) ∨
    t.buf = []

/-! ### Reset -/

/-- R201: SESSION_INIT, admitted only when no waiter is in progress; `TXN_CTR` is unchanged. -/
def Obligations.SessionInitClearsTheSession : Prop :=
  ∀ s : State,
    ((∀ w ∈ s.waiters, ∃ o, w.phase = .done o) →
      exec .sessionInit s =
        .next { s with
          buf := [], syncBusy := false, lastAckId := 0x00, lastNackId := 0x00, lastNackReason := 0x00 }) ∧
    ((∃ w ∈ s.waiters, ∀ o, w.phase ≠ .done o) → exec .sessionInit s = .refused .resetWhileActive)

/-- R200: RESET, admitted only when no waiter is in progress; it may cut a parse run short and leaves `OUT`. -/
def Obligations.ResetClearsTheBlock : Prop :=
  ∀ s : State,
    ((∀ w ∈ s.waiters, ∃ o, w.phase = .done o) →
      exec .reset s =
        .next { s with
          buf := [], syncBusy := false, txnCtr := s.cfg.txnCtrInit
          lastAckId := 0x00, lastNackId := 0x00, lastNackReason := 0x00 }) ∧
    ((∃ w ∈ s.waiters, ∀ o, w.phase ≠ .done o) → exec .reset s = .refused .resetWhileActive)

/-- DERIVED, R22 to R29 and R202: the block's state after reset, for every configuration. -/
def Obligations.StateAfterReset : Prop :=
  ∀ c : Config, (State.resetOf c).buf = [] ∧ (State.resetOf c).syncBusy = false ∧
    (State.resetOf c).txnCtr = c.txnCtrInit ∧ (State.resetOf c).lastAckId = 0x00 ∧ (State.resetOf c).lastNackId = 0x00 ∧
    (State.resetOf c).lastNackReason = 0x00 ∧ (State.resetOf c).waiters = [] ∧ (State.resetOf c).cfg = c

/-- DERIVED, R162 and R213: right after RESET a wait for 0x00 returns at its first step with no frame received: Rejected under
`NACK_FIRST`, Success under `ACK_FIRST`. -/
def Obligations.WaitForZeroAfterResetReturnsAtOnce : Prop :=
  ∀ (s t u v : State) (d : Bool) (l : List Turn), s.cfg.valid = true →
    exec .reset s = .next t → exec (.txnWait 0x00) t = .next u →
    step { u with sched := .waiter s.waiters.length d :: l } = .next v →
    v.results = s.results ++
      [.waited 0x00 (if s.cfg.waitCheckOrder = .nackFirst then .rejected else .success)]

/-- DERIVED, R113 and R180: the block has no traps: a step stops in a fault only if a host offers a PARSE_STEP or a frame as an
operation, which no host can (R80, R186). -/
def Obligations.StepFaultsOnlyOnOfferedFrames : Prop :=
  ∀ (s : State) (r : Fault), step s = .fault r →
    ∃ i q, s.offered = i :: q ∧ (i = .parseStep ∨ (i.inFrame s.cfg).isSome = true)

/-- DERIVED, R191 and R192: at rest, with no turn scheduled, all state is kept. -/
def Obligations.IdleBlockKeepsItsState : Prop :=
  ∀ s : State, s.cfg.valid = true → s.AtRest → s.sched = [] → step s = .next s

/-! ### Runs -/

/-- DERIVED, R161, R185, R192: a run in which an enabled PARSE_STEP is eventually taken comes to a fixpoint again and again, whatever
the other agents do; in every fair run a wait in progress returns, its outcome recorded; no run in which a waiter is at
DECIDE again and again for ever is fair; and every run the machine makes by itself comes to rest or stops by name, and comes to rest
where nothing is offered. (Free draws and the turns that no schedule names: notes/assumptions/3.md and 4.md; how fairness is read:
notes/assumptions/6.md.) -/
def Obligations.FairRunsProgress : Prop :=
  (∀ (states : Nat → State) (choices : Nat → Choice), IsRun states choices → ParseFair states choices →
    ∀ n, ∃ m, n ≤ m ∧ (states m).syncBusy = false) ∧
  (∀ (states : Nat → State) (choices : Nat → Choice), FairRun states choices →
    ∀ (n i : Nat) (w : Waiter), (states n).waiters[i]? = some w → w.inProgress = true →
      ∃ (m : Nat) (o : WaitOutcome), n < m ∧ (states m).waiters[i]? = some (Waiter.mk w.target (.done o)) ∧
        .waited w.target o ∈ (states m).results.drop (states n).results.length) ∧
  (∀ (states : Nat → State) (choices : Nat → Choice) (i : Nat), IsRun states choices →
    (∀ n, ∃ (m : Nat) (T : Byte), n ≤ m ∧ (states m).waiters[i]? = some (Waiter.mk T .decide)) →
    ¬ FairRun states choices) ∧
  (∀ s : State, ∃ n, (∃ t, steps n s = .next t ∧ t.AtRest) ∨ (∃ r, steps n s = .fault r) ∨ ∃ r, steps n s = .refused r) ∧
  ∀ s : State, s.cfg.valid = true → s.offered = [] → ∃ n t, steps n s = .next t ∧ t.AtRest

/-! ### Frames: what an instruction leaves unchanged -/

/-- DERIVED, R48, R100 to R103, R30, R150, R152, R163 to R169: the CRC operations, READ_REGS, TXN_ALLOC, TX_ASSEMBLE and the seven
outbound kinds store nothing in the buffer and change no register but `TXN_CTR`; the CRC operations and READ_REGS not that
either. -/
def Obligations.FrameOfPortOperations : Prop :=
  ∀ (s t : State) (i : Instr), exec i s = .next t →
    ((∃ B n, i = .crcCompute B n) ∨ (∃ B n cap, i = .crcAppend B n cap) ∨ (∃ B n, i = .crcCheck B n) ∨ i = .readRegs ∨
      i = .txnAlloc ∨ (∃ k P cap, i = .txAssemble k P cap) ∨ i.outPayload.isSome = true) →
    (∀ a, t.buf.byte a = s.buf.byte a) ∧ t.syncBusy = s.syncBusy ∧ t.lastAckId = s.lastAckId ∧
    t.lastNackId = s.lastNackId ∧ t.lastNackReason = s.lastNackReason ∧ t.waiters = s.waiters ∧ t.out = s.out ∧
    t.offered = s.offered ∧ t.sched = s.sched ∧ t.cfg = s.cfg ∧ t.draws = s.draws ∧
    (((∃ B n, i = .crcCompute B n) ∨ (∃ B n cap, i = .crcAppend B n cap) ∨ (∃ B n, i = .crcCheck B n) ∨ i = .readRegs) →
      t.txnCtr = s.txnCtr)

/-- DERIVED, R112 and R44: RX_PUSH stores its chunk at the indices from len(BUF) on, in order, and every other index reads as before;
it changes no register but `SYNC_BUSY`. -/
def Obligations.FrameOfRxPush : Prop :=
  ∀ (s t : State) (C : List Byte), exec (.rxPush C) s = .next t →
    (∀ a, a < s.buf.length ∨ s.buf.length + C.length ≤ a → t.buf.byte a = s.buf.byte a) ∧
    (s.syncBusy = false → ∀ j, j < C.length → t.buf.byte (s.buf.length + j) = C[j]?) ∧
    (s.syncBusy = true → t.buf = s.buf) ∧
    t.txnCtr = s.txnCtr ∧ t.lastAckId = s.lastAckId ∧ t.lastNackId = s.lastNackId ∧ t.lastNackReason = s.lastNackReason ∧
    t.waiters = s.waiters ∧ t.out = s.out ∧ t.results = s.results ∧ t.cfg = s.cfg

/-- DERIVED, R113 to R118: PARSE_STEP and the six inbound kinds only remove bytes from the front (none, one, or the accepted frame's
size), so every byte left reads as it did that many indices later; they leave `TXN_CTR`, the waiters and the host's offers, and
the last-seen registers but those of an accepted ACK or NACK. -/
def Obligations.FrameOfParsing : Prop :=
  ∀ (s t : State) (i : Instr), (i = .parseStep ∨ (i.inFrame s.cfg).isSome = true) → exec i s = .next t →
    (∃ n, (n = 0 ∨ n = 1 ∨ ∃ k F, n = inboundSize k ∧ t.out = s.out ++ [⟨k, F⟩]) ∧
      ∀ a, t.buf.byte a = s.buf.byte (n + a)) ∧
    t.txnCtr = s.txnCtr ∧ t.waiters = s.waiters ∧ t.offered = s.offered ∧ t.sched = s.sched ∧ t.cfg = s.cfg ∧
    t.draws = s.draws ∧
    (t.lastAckId = s.lastAckId ∨ ∃ F, t.out = s.out ++ [⟨.ack, F⟩]) ∧
    ((t.lastNackId = s.lastNackId ∧ t.lastNackReason = s.lastNackReason) ∨ ∃ F, t.out = s.out ++ [⟨.nack, F⟩])
end

