-- ==== Sys2Proof/Laws/Decode.lean ====
section
/-! SUPPORT. The decoder and the encoder: byte order, kinds and sizes, framing. -/

namespace Sys2Proof

/-! ### Byte order -/

theorem extractLsb'_append_high {w v : Nat} (a : BitVec w) (b : BitVec v) : (a ++ b).extractLsb' v w = a := by
  apply BitVec.eq_of_getLsbD_eq
  intro i hi
  simp [BitVec.getLsbD_append, hi]

theorem extractLsb'_append_low {w v : Nat} (a : BitVec w) (b : BitVec v) : (a ++ b).extractLsb' 0 v = b := by
  apply BitVec.eq_of_getLsbD_eq
  intro i hi
  simp [BitVec.getLsbD_append, hi]

@[simp] theorem be16_bytes (v : Half) : be16 (hi8 v) (lo8 v) = v := by
  apply BitVec.eq_of_getLsbD_eq
  intro i hi
  simp only [be16, hi8, lo8, BitVec.getLsbD_append, BitVec.getLsbD_extractLsb']
  by_cases h : i < 8
  · simp [h]
  · simp [h, show i - 8 < 8 by omega, show 8 + (i - 8) = i by omega]

@[simp] theorem hi8_be16 (a b : Byte) : hi8 (be16 a b) = a :=
  extractLsb'_append_high a b

@[simp] theorem lo8_be16 (a b : Byte) : lo8 (be16 a b) = b :=
  extractLsb'_append_low a b

theorem bytes16_be16 (a b : Byte) : bytes16 (be16 a b) = [a, b] := by simp [bytes16]

theorem be32_bytes (v : Long) :
    be32 (hi8 (v.extractLsb' 16 16)) (lo8 (v.extractLsb' 16 16)) (hi8 (v.extractLsb' 0 16)) (lo8 (v.extractLsb' 0 16)) = v := by
  apply BitVec.eq_of_getLsbD_eq
  intro i hi
  simp only [be32, be16_bytes, BitVec.getLsbD_append, BitVec.getLsbD_extractLsb']
  by_cases h : i < 16
  · simp [h]
  · simp [h, show i - 16 < 16 by omega, show 16 + (i - 16) = i by omega]

theorem bytes32_be32 (a b c d : Byte) : bytes32 (be32 a b c d) = [a, b, c, d] := by
  have hi : (be32 a b c d).extractLsb' 16 16 = be16 a b := extractLsb'_append_high _ _
  have lo : (be32 a b c d).extractLsb' 0 16 = be16 c d := extractLsb'_append_low _ _
  simp [bytes32, hi, lo, bytes16_be16]

@[simp] theorem highNibble_append (a b : Nibble) : highNibble (a ++ b : BitVec 8) = a :=
  extractLsb'_append_high a b

@[simp] theorem lowNibble_append (a b : Nibble) : lowNibble (a ++ b : BitVec 8) = b :=
  extractLsb'_append_low a b

theorem nibbles_append (b : Byte) : (highNibble b ++ lowNibble b : BitVec 8) = b := by
  apply BitVec.eq_of_getLsbD_eq
  intro i hi
  simp only [highNibble, lowNibble, BitVec.getLsbD_append, BitVec.getLsbD_extractLsb']
  by_cases h : i < 4
  · simp [h]
  · simp [h, show i - 4 < 4 by omega, show 4 + (i - 4) = i by omega]

@[simp] theorem bytes16_length (v : Half) : (bytes16 v).length = 2 := rfl

@[simp] theorem bytes32_length (v : Long) : (bytes32 v).length = 4 := rfl

/-! ### Records -/

@[simp] theorem Point.bytes_length (p : Point) : p.bytes.length = 5 := rfl

@[simp] theorem ExtRecord.bytes_length (r : ExtRecord) : r.bytes.length = 16 := rfl

@[simp] theorem RegTriple.bytes_length (t : RegTriple) : t.bytes.length = 3 := rfl

theorem recordBytes_length {α : Type} {wr : α → List Byte} {w : Nat} (h : ∀ a, (wr a).length = w) (l : List α) :
    (recordBytes wr l).length = w * l.length := by
  induction l with
  | nil => rfl
  | cons a l ih => simp [recordBytes, h, ih, Nat.mul_add, Nat.add_comm]

/-- Reading back the records that were written. -/
theorem recordsOf_recordBytes {α : Type} {wr : α → List Byte} {rd : List Byte → α} {w : Nat}
    (hw : ∀ a, (wr a).length = w) (hr : ∀ a, rd (wr a) = a) (l : List α) (B : List Byte) :
    recordsOf rd w l.length (recordBytes wr l ++ B) = l := by
  induction l with
  | nil => rfl
  | cons a l ih =>
    have ht : (wr a ++ (recordBytes wr l ++ B)).take w = wr a := by simp [← hw a]
    have hd : (wr a ++ (recordBytes wr l ++ B)).drop w = recordBytes wr l ++ B := by simp [← hw a]
    simp only [recordBytes, List.append_assoc, List.length_cons, recordsOf, ht, hd, hr, ih]

/-- Writing back the records that were read. -/
theorem recordBytes_recordsOf {α : Type} {wr : α → List Byte} {rd : List Byte → α} {w : Nat}
    (hr : ∀ B : List Byte, B.length = w → wr (rd B) = B) (n : Nat) (B : List Byte) (h : w * n ≤ B.length) :
    recordBytes wr (recordsOf rd w n B) = B.take (w * n) := by
  induction n generalizing B with
  | zero => simp [recordsOf, recordBytes]
  | succ n ih =>
    have hn : w + w * n ≤ B.length := by rw [Nat.mul_succ] at h; omega
    have h1 : (B.take w).length = w := by simp; omega
    have h2 : w * n ≤ (B.drop w).length := by simp; omega
    rw [recordsOf, recordBytes, hr _ h1, ih _ h2, Nat.mul_succ, Nat.add_comm, List.take_add]

theorem pointOf_bytes (p : Point) : pointOf p.bytes = p := by
  cases p
  simp [pointOf, Point.bytes, byteAt, bytes16]

theorem bytes_pointOf (B : List Byte) (h : B.length = 5) : (pointOf B).bytes = B := by
  match B, h with
  | [a, b, c, d, e], _ => simp [pointOf, Point.bytes, byteAt, bytes16_be16]

theorem extRecordOf_bytes (r : ExtRecord) : extRecordOf r.bytes = r := by
  cases r
  simp [extRecordOf, ExtRecord.bytes, byteAt, bytes16]

theorem bytes_extRecordOf (B : List Byte) (h : B.length = 16) : (extRecordOf B).bytes = B := by
  match B, h with
  | [a, b, c, d, e, f, g, h, i, j, k, l, m, n, o, p], _ =>
    simp [extRecordOf, ExtRecord.bytes, byteAt, bytes16_be16, nibbles_append]

theorem tripleOf_bytes (t : RegTriple) : tripleOf t.bytes = t := by
  cases t
  simp [tripleOf, RegTriple.bytes, byteAt]

theorem bytes_tripleOf (B : List Byte) (h : B.length = 3) : (tripleOf B).bytes = B := by
  match B, h with
  | [a, b, c], _ => simp [tripleOf, RegTriple.bytes, byteAt]

/-! ### Sizes (R62) -/

theorem inboundSize_pos (k : InKind) : 4 ≤ inboundSize k := by cases k <;> decide

theorem inboundSize_le_maxFrame (k : InKind) : inboundSize k ≤ maxFrame := by cases k <;> decide

theorem inFrame_length {c : Config} {i : Instr} {k : InKind} {F : List Byte} (h : i.inFrame c = some (k, F)) :
    F.length = inboundSize k := by
  cases i <;> simp only [Instr.inFrame, Option.some.injEq, Prod.mk.injEq, reduceCtorEq] at h <;> obtain ⟨rfl, rfl⟩ := h
  · rfl
  · rfl
  · simp [coordinateBytes, recordBytes_length Point.bytes_length, inboundSize]
  · simp [extendedCoordinatesBytes, recordBytes_length ExtRecord.bytes_length, inboundSize]
  · rfl
  · rfl

theorem inFrame_head {c : Config} {i : Instr} {k : InKind} {F : List Byte} (h : i.inFrame c = some (k, F)) :
    ∃ G, F = c.inboundId k :: G := by
  cases i <;> simp only [Instr.inFrame, Option.some.injEq, Prod.mk.injEq, reduceCtorEq] at h <;> obtain ⟨rfl, rfl⟩ := h <;>
    exact ⟨_, rfl⟩

/-! ### Kinds and framing -/

theorem InKind.mem_all (k : InKind) : k ∈ InKind.all := by cases k <;> decide

theorem OutKind.mem_all (k : OutKind) : k ∈ OutKind.all := by cases k <;> decide

theorem Config.kindOf_some {c : Config} {b : Byte} {k : InKind} (h : c.kindOf b = some k) : c.inboundId k = b := by
  simpa using List.find?_some h

theorem Config.outKindOf_some {c : Config} {b : Byte} {k : OutKind} (h : c.outKindOf b = some k) : c.outboundId k = b := by
  simpa using List.find?_some h

theorem Config.kindOf_none {c : Config} {b : Byte} : c.kindOf b = none ↔ ∀ k, c.inboundId k ≠ b := by
  simp only [Config.kindOf, List.find?_eq_none, beq_iff_eq]
  exact ⟨fun h k => h k (InKind.mem_all k), fun h k _ => h k⟩

theorem Config.inboundId_injective {c : Config} (hc : c.valid = true) {k k' : InKind}
    (h : c.inboundId k = c.inboundId k') : k = k' := by
  have hn : (InKind.all.map c.inboundId).Nodup := by simpa [Config.valid] using hc
  exact List.inj_on_of_nodup_map hn (InKind.mem_all k) (InKind.mem_all k') h

theorem Config.kindOf_inboundId {c : Config} (hc : c.valid = true) (k : InKind) : c.kindOf (c.inboundId k) = some k := by
  cases h : c.kindOf (c.inboundId k) with
  | none => exact absurd rfl (Config.kindOf_none.mp h k)
  | some k' => rw [Config.inboundId_injective hc (Config.kindOf_some h)]

theorem front_empty_iff {c : Config} {B : List Byte} : front c B = .empty ↔ B = [] := by
  cases B with
  | nil => simp [front]
  | cons b B =>
    simp only [front, reduceCtorEq, iff_false]
    split
    · simp
    · split <;> simp

theorem front_unrecognized_iff {c : Config} {B : List Byte} :
    front c B = .unrecognized ↔ ∃ b, B.head? = some b ∧ c.kindOf b = none := by
  cases B with
  | nil => simp [front]
  | cons b B =>
    cases h : c.kindOf b with
    | none => simp [front, h]
    | some k =>
      simp only [front, h]
      split <;> simp [h]

theorem front_incomplete_iff {c : Config} {B : List Byte} {k : InKind} :
    front c B = .incomplete k ↔ (∃ b, B.head? = some b ∧ c.kindOf b = some k) ∧ B.length < inboundSize k := by
  cases B with
  | nil => simp [front]
  | cons b B =>
    cases h : c.kindOf b with
    | none => simp [front, h]
    | some k' =>
      simp only [front, h]
      split <;> simp_all <;> rintro rfl <;> omega

theorem front_complete_iff {c : Config} {B : List Byte} {k : InKind} :
    front c B = .complete k ↔ (∃ b, B.head? = some b ∧ c.kindOf b = some k) ∧ inboundSize k ≤ B.length := by
  cases B with
  | nil => simp [front]
  | cons b B =>
    cases h : c.kindOf b with
    | none => simp [front, h]
    | some k' =>
      simp only [front, h]
      split <;> simp_all <;> rintro rfl <;> omega

/-- A frame's bytes, with anything after them, are a complete window of its kind. -/
theorem front_inFrame {c : Config} (hc : c.valid = true) {i : Instr} {k : InKind} {F : List Byte}
    (h : i.inFrame c = some (k, F)) (B : List Byte) : front c (F ++ B) = .complete k := by
  obtain ⟨G, rfl⟩ := inFrame_head h
  refine front_complete_iff.mpr ⟨⟨c.inboundId k, rfl, Config.kindOf_inboundId hc k⟩, ?_⟩
  have := inFrame_length h
  simp at this ⊢
  omega

end Sys2Proof
end

