-- ==== Sys2Proof/Laws/State.lean ====
section
/-! SUPPORT. One lemma per field per update of `State`, true by rfl, so that no later proof unfolds an update. -/

namespace Sys2Proof.Machine

variable (s : State)

@[simp] theorem State.setBuf_buf (m : Memory) : (s.setBuf m).buf = m := rfl
@[simp] theorem State.setBuf_syncBusy (m : Memory) : (s.setBuf m).syncBusy = s.syncBusy := rfl
@[simp] theorem State.setBuf_txnCtr (m : Memory) : (s.setBuf m).txnCtr = s.txnCtr := rfl
@[simp] theorem State.setBuf_lastAckId (m : Memory) : (s.setBuf m).lastAckId = s.lastAckId := rfl
@[simp] theorem State.setBuf_lastNackId (m : Memory) : (s.setBuf m).lastNackId = s.lastNackId := rfl
@[simp] theorem State.setBuf_lastNackReason (m : Memory) : (s.setBuf m).lastNackReason = s.lastNackReason := rfl
@[simp] theorem State.setBuf_waiters (m : Memory) : (s.setBuf m).waiters = s.waiters := rfl
@[simp] theorem State.setBuf_out (m : Memory) : (s.setBuf m).out = s.out := rfl
@[simp] theorem State.setBuf_results (m : Memory) : (s.setBuf m).results = s.results := rfl
@[simp] theorem State.setBuf_cfg (m : Memory) : (s.setBuf m).cfg = s.cfg := rfl
@[simp] theorem State.setBuf_offered (m : Memory) : (s.setBuf m).offered = s.offered := rfl
@[simp] theorem State.setBuf_sched (m : Memory) : (s.setBuf m).sched = s.sched := rfl
@[simp] theorem State.setBuf_draws (m : Memory) : (s.setBuf m).draws = s.draws := rfl

@[simp] theorem State.setBusy_buf (b : Bool) : (s.setBusy b).buf = s.buf := rfl
@[simp] theorem State.setBusy_syncBusy (b : Bool) : (s.setBusy b).syncBusy = b := rfl
@[simp] theorem State.setBusy_txnCtr (b : Bool) : (s.setBusy b).txnCtr = s.txnCtr := rfl
@[simp] theorem State.setBusy_lastAckId (b : Bool) : (s.setBusy b).lastAckId = s.lastAckId := rfl
@[simp] theorem State.setBusy_lastNackId (b : Bool) : (s.setBusy b).lastNackId = s.lastNackId := rfl
@[simp] theorem State.setBusy_lastNackReason (b : Bool) : (s.setBusy b).lastNackReason = s.lastNackReason := rfl
@[simp] theorem State.setBusy_waiters (b : Bool) : (s.setBusy b).waiters = s.waiters := rfl
@[simp] theorem State.setBusy_out (b : Bool) : (s.setBusy b).out = s.out := rfl
@[simp] theorem State.setBusy_results (b : Bool) : (s.setBusy b).results = s.results := rfl
@[simp] theorem State.setBusy_cfg (b : Bool) : (s.setBusy b).cfg = s.cfg := rfl
@[simp] theorem State.setBusy_offered (b : Bool) : (s.setBusy b).offered = s.offered := rfl
@[simp] theorem State.setBusy_sched (b : Bool) : (s.setBusy b).sched = s.sched := rfl
@[simp] theorem State.setBusy_draws (b : Bool) : (s.setBusy b).draws = s.draws := rfl

@[simp] theorem State.setTxnCtr_buf (t : Byte) : (s.setTxnCtr t).buf = s.buf := rfl
@[simp] theorem State.setTxnCtr_syncBusy (t : Byte) : (s.setTxnCtr t).syncBusy = s.syncBusy := rfl
@[simp] theorem State.setTxnCtr_txnCtr (t : Byte) : (s.setTxnCtr t).txnCtr = t := rfl
@[simp] theorem State.setTxnCtr_lastAckId (t : Byte) : (s.setTxnCtr t).lastAckId = s.lastAckId := rfl
@[simp] theorem State.setTxnCtr_lastNackId (t : Byte) : (s.setTxnCtr t).lastNackId = s.lastNackId := rfl
@[simp] theorem State.setTxnCtr_lastNackReason (t : Byte) : (s.setTxnCtr t).lastNackReason = s.lastNackReason := rfl
@[simp] theorem State.setTxnCtr_waiters (t : Byte) : (s.setTxnCtr t).waiters = s.waiters := rfl
@[simp] theorem State.setTxnCtr_out (t : Byte) : (s.setTxnCtr t).out = s.out := rfl
@[simp] theorem State.setTxnCtr_results (t : Byte) : (s.setTxnCtr t).results = s.results := rfl
@[simp] theorem State.setTxnCtr_cfg (t : Byte) : (s.setTxnCtr t).cfg = s.cfg := rfl
@[simp] theorem State.setTxnCtr_offered (t : Byte) : (s.setTxnCtr t).offered = s.offered := rfl
@[simp] theorem State.setTxnCtr_sched (t : Byte) : (s.setTxnCtr t).sched = s.sched := rfl
@[simp] theorem State.setTxnCtr_draws (t : Byte) : (s.setTxnCtr t).draws = s.draws := rfl

@[simp] theorem State.setAck_buf (t : Byte) : (s.setAck t).buf = s.buf := rfl
@[simp] theorem State.setAck_syncBusy (t : Byte) : (s.setAck t).syncBusy = s.syncBusy := rfl
@[simp] theorem State.setAck_txnCtr (t : Byte) : (s.setAck t).txnCtr = s.txnCtr := rfl
@[simp] theorem State.setAck_lastAckId (t : Byte) : (s.setAck t).lastAckId = t := rfl
@[simp] theorem State.setAck_lastNackId (t : Byte) : (s.setAck t).lastNackId = s.lastNackId := rfl
@[simp] theorem State.setAck_lastNackReason (t : Byte) : (s.setAck t).lastNackReason = s.lastNackReason := rfl
@[simp] theorem State.setAck_waiters (t : Byte) : (s.setAck t).waiters = s.waiters := rfl
@[simp] theorem State.setAck_out (t : Byte) : (s.setAck t).out = s.out := rfl
@[simp] theorem State.setAck_results (t : Byte) : (s.setAck t).results = s.results := rfl
@[simp] theorem State.setAck_cfg (t : Byte) : (s.setAck t).cfg = s.cfg := rfl
@[simp] theorem State.setAck_offered (t : Byte) : (s.setAck t).offered = s.offered := rfl
@[simp] theorem State.setAck_sched (t : Byte) : (s.setAck t).sched = s.sched := rfl
@[simp] theorem State.setAck_draws (t : Byte) : (s.setAck t).draws = s.draws := rfl

@[simp] theorem State.setNack_buf (t r : Byte) : (s.setNack t r).buf = s.buf := rfl
@[simp] theorem State.setNack_syncBusy (t r : Byte) : (s.setNack t r).syncBusy = s.syncBusy := rfl
@[simp] theorem State.setNack_txnCtr (t r : Byte) : (s.setNack t r).txnCtr = s.txnCtr := rfl
@[simp] theorem State.setNack_lastAckId (t r : Byte) : (s.setNack t r).lastAckId = s.lastAckId := rfl
@[simp] theorem State.setNack_lastNackId (t r : Byte) : (s.setNack t r).lastNackId = t := rfl
@[simp] theorem State.setNack_lastNackReason (t r : Byte) : (s.setNack t r).lastNackReason = r := rfl
@[simp] theorem State.setNack_waiters (t r : Byte) : (s.setNack t r).waiters = s.waiters := rfl
@[simp] theorem State.setNack_out (t r : Byte) : (s.setNack t r).out = s.out := rfl
@[simp] theorem State.setNack_results (t r : Byte) : (s.setNack t r).results = s.results := rfl
@[simp] theorem State.setNack_cfg (t r : Byte) : (s.setNack t r).cfg = s.cfg := rfl
@[simp] theorem State.setNack_offered (t r : Byte) : (s.setNack t r).offered = s.offered := rfl
@[simp] theorem State.setNack_sched (t r : Byte) : (s.setNack t r).sched = s.sched := rfl
@[simp] theorem State.setNack_draws (t r : Byte) : (s.setNack t r).draws = s.draws := rfl

@[simp] theorem State.setWaiters_buf (ws : List Waiter) : (s.setWaiters ws).buf = s.buf := rfl
@[simp] theorem State.setWaiters_syncBusy (ws : List Waiter) : (s.setWaiters ws).syncBusy = s.syncBusy := rfl
@[simp] theorem State.setWaiters_txnCtr (ws : List Waiter) : (s.setWaiters ws).txnCtr = s.txnCtr := rfl
@[simp] theorem State.setWaiters_lastAckId (ws : List Waiter) : (s.setWaiters ws).lastAckId = s.lastAckId := rfl
@[simp] theorem State.setWaiters_lastNackId (ws : List Waiter) : (s.setWaiters ws).lastNackId = s.lastNackId := rfl
@[simp] theorem State.setWaiters_lastNackReason (ws : List Waiter) : (s.setWaiters ws).lastNackReason = s.lastNackReason := rfl
@[simp] theorem State.setWaiters_waiters (ws : List Waiter) : (s.setWaiters ws).waiters = ws := rfl
@[simp] theorem State.setWaiters_out (ws : List Waiter) : (s.setWaiters ws).out = s.out := rfl
@[simp] theorem State.setWaiters_results (ws : List Waiter) : (s.setWaiters ws).results = s.results := rfl
@[simp] theorem State.setWaiters_cfg (ws : List Waiter) : (s.setWaiters ws).cfg = s.cfg := rfl
@[simp] theorem State.setWaiters_offered (ws : List Waiter) : (s.setWaiters ws).offered = s.offered := rfl
@[simp] theorem State.setWaiters_sched (ws : List Waiter) : (s.setWaiters ws).sched = s.sched := rfl
@[simp] theorem State.setWaiters_draws (ws : List Waiter) : (s.setWaiters ws).draws = s.draws := rfl

@[simp] theorem State.emit_buf (k : InKind) (F : List Byte) : (s.emit k F).buf = s.buf := rfl
@[simp] theorem State.emit_syncBusy (k : InKind) (F : List Byte) : (s.emit k F).syncBusy = s.syncBusy := rfl
@[simp] theorem State.emit_txnCtr (k : InKind) (F : List Byte) : (s.emit k F).txnCtr = s.txnCtr := rfl
@[simp] theorem State.emit_lastAckId (k : InKind) (F : List Byte) : (s.emit k F).lastAckId = s.lastAckId := rfl
@[simp] theorem State.emit_lastNackId (k : InKind) (F : List Byte) : (s.emit k F).lastNackId = s.lastNackId := rfl
@[simp] theorem State.emit_lastNackReason (k : InKind) (F : List Byte) : (s.emit k F).lastNackReason = s.lastNackReason := rfl
@[simp] theorem State.emit_waiters (k : InKind) (F : List Byte) : (s.emit k F).waiters = s.waiters := rfl
@[simp] theorem State.emit_out (k : InKind) (F : List Byte) : (s.emit k F).out = s.out ++ [⟨k, F⟩] := rfl
@[simp] theorem State.emit_results (k : InKind) (F : List Byte) : (s.emit k F).results = s.results := rfl
@[simp] theorem State.emit_cfg (k : InKind) (F : List Byte) : (s.emit k F).cfg = s.cfg := rfl
@[simp] theorem State.emit_offered (k : InKind) (F : List Byte) : (s.emit k F).offered = s.offered := rfl
@[simp] theorem State.emit_sched (k : InKind) (F : List Byte) : (s.emit k F).sched = s.sched := rfl
@[simp] theorem State.emit_draws (k : InKind) (F : List Byte) : (s.emit k F).draws = s.draws := rfl

@[simp] theorem State.ret_buf (r : Result) : (s.ret r).buf = s.buf := rfl
@[simp] theorem State.ret_syncBusy (r : Result) : (s.ret r).syncBusy = s.syncBusy := rfl
@[simp] theorem State.ret_txnCtr (r : Result) : (s.ret r).txnCtr = s.txnCtr := rfl
@[simp] theorem State.ret_lastAckId (r : Result) : (s.ret r).lastAckId = s.lastAckId := rfl
@[simp] theorem State.ret_lastNackId (r : Result) : (s.ret r).lastNackId = s.lastNackId := rfl
@[simp] theorem State.ret_lastNackReason (r : Result) : (s.ret r).lastNackReason = s.lastNackReason := rfl
@[simp] theorem State.ret_waiters (r : Result) : (s.ret r).waiters = s.waiters := rfl
@[simp] theorem State.ret_out (r : Result) : (s.ret r).out = s.out := rfl
@[simp] theorem State.ret_results (r : Result) : (s.ret r).results = s.results ++ [r] := rfl
@[simp] theorem State.ret_cfg (r : Result) : (s.ret r).cfg = s.cfg := rfl
@[simp] theorem State.ret_offered (r : Result) : (s.ret r).offered = s.offered := rfl
@[simp] theorem State.ret_sched (r : Result) : (s.ret r).sched = s.sched := rfl
@[simp] theorem State.ret_draws (r : Result) : (s.ret r).draws = s.draws := rfl

@[simp] theorem State.setOffered_buf (q : List Instr) : (s.setOffered q).buf = s.buf := rfl
@[simp] theorem State.setOffered_syncBusy (q : List Instr) : (s.setOffered q).syncBusy = s.syncBusy := rfl
@[simp] theorem State.setOffered_txnCtr (q : List Instr) : (s.setOffered q).txnCtr = s.txnCtr := rfl
@[simp] theorem State.setOffered_lastAckId (q : List Instr) : (s.setOffered q).lastAckId = s.lastAckId := rfl
@[simp] theorem State.setOffered_lastNackId (q : List Instr) : (s.setOffered q).lastNackId = s.lastNackId := rfl
@[simp] theorem State.setOffered_lastNackReason (q : List Instr) : (s.setOffered q).lastNackReason = s.lastNackReason := rfl
@[simp] theorem State.setOffered_waiters (q : List Instr) : (s.setOffered q).waiters = s.waiters := rfl
@[simp] theorem State.setOffered_out (q : List Instr) : (s.setOffered q).out = s.out := rfl
@[simp] theorem State.setOffered_results (q : List Instr) : (s.setOffered q).results = s.results := rfl
@[simp] theorem State.setOffered_cfg (q : List Instr) : (s.setOffered q).cfg = s.cfg := rfl
@[simp] theorem State.setOffered_offered (q : List Instr) : (s.setOffered q).offered = q := rfl
@[simp] theorem State.setOffered_sched (q : List Instr) : (s.setOffered q).sched = s.sched := rfl
@[simp] theorem State.setOffered_draws (q : List Instr) : (s.setOffered q).draws = s.draws := rfl

@[simp] theorem State.setSched_buf (l : List Turn) : (s.setSched l).buf = s.buf := rfl
@[simp] theorem State.setSched_syncBusy (l : List Turn) : (s.setSched l).syncBusy = s.syncBusy := rfl
@[simp] theorem State.setSched_txnCtr (l : List Turn) : (s.setSched l).txnCtr = s.txnCtr := rfl
@[simp] theorem State.setSched_lastAckId (l : List Turn) : (s.setSched l).lastAckId = s.lastAckId := rfl
@[simp] theorem State.setSched_lastNackId (l : List Turn) : (s.setSched l).lastNackId = s.lastNackId := rfl
@[simp] theorem State.setSched_lastNackReason (l : List Turn) : (s.setSched l).lastNackReason = s.lastNackReason := rfl
@[simp] theorem State.setSched_waiters (l : List Turn) : (s.setSched l).waiters = s.waiters := rfl
@[simp] theorem State.setSched_out (l : List Turn) : (s.setSched l).out = s.out := rfl
@[simp] theorem State.setSched_results (l : List Turn) : (s.setSched l).results = s.results := rfl
@[simp] theorem State.setSched_cfg (l : List Turn) : (s.setSched l).cfg = s.cfg := rfl
@[simp] theorem State.setSched_offered (l : List Turn) : (s.setSched l).offered = s.offered := rfl
@[simp] theorem State.setSched_sched (l : List Turn) : (s.setSched l).sched = l := rfl
@[simp] theorem State.setSched_draws (l : List Turn) : (s.setSched l).draws = s.draws := rfl

@[simp] theorem State.countDraw_buf (d : Bool) : (s.countDraw d).buf = s.buf := rfl
@[simp] theorem State.countDraw_syncBusy (d : Bool) : (s.countDraw d).syncBusy = s.syncBusy := rfl
@[simp] theorem State.countDraw_txnCtr (d : Bool) : (s.countDraw d).txnCtr = s.txnCtr := rfl
@[simp] theorem State.countDraw_lastAckId (d : Bool) : (s.countDraw d).lastAckId = s.lastAckId := rfl
@[simp] theorem State.countDraw_lastNackId (d : Bool) : (s.countDraw d).lastNackId = s.lastNackId := rfl
@[simp] theorem State.countDraw_lastNackReason (d : Bool) : (s.countDraw d).lastNackReason = s.lastNackReason := rfl
@[simp] theorem State.countDraw_waiters (d : Bool) : (s.countDraw d).waiters = s.waiters := rfl
@[simp] theorem State.countDraw_out (d : Bool) : (s.countDraw d).out = s.out := rfl
@[simp] theorem State.countDraw_results (d : Bool) : (s.countDraw d).results = s.results := rfl
@[simp] theorem State.countDraw_cfg (d : Bool) : (s.countDraw d).cfg = s.cfg := rfl
@[simp] theorem State.countDraw_offered (d : Bool) : (s.countDraw d).offered = s.offered := rfl
@[simp] theorem State.countDraw_sched (d : Bool) : (s.countDraw d).sched = s.sched := rfl
@[simp] theorem State.countDraw_draws (d : Bool) : (s.countDraw d).draws =
    if d then ⟨s.draws.timeouts + 1, 0⟩ else ⟨s.draws.timeouts, s.draws.wentOn + 1⟩ := rfl

end Sys2Proof.Machine
end

