-- ==== Sys2Proof/Laws/Memory.lean ====
section
/-! SUPPORT. The receive buffer's operations: what each byte is afterwards, and that each keeps the canonical form. -/

namespace Sys2Proof.Machine

theorem Memory.wf_iff (cap : Nat) (m : Memory) : Memory.wf cap m = true ↔ m.length ≤ cap := by
  simp [Memory.wf]

theorem Memory.wf_nil (cap : Nat) : Memory.wf cap [] = true := by simp [Memory.wf]

theorem Memory.wf_dropFront {cap : Nat} {m : Memory} (n : Nat) (h : Memory.wf cap m = true) :
    Memory.wf cap (m.dropFront n) = true := by
  simp only [Memory.wf_iff, Memory.dropFront, List.length_drop] at *
  omega

theorem Memory.wf_append {cap : Nat} {m : Memory} {C : List Byte} (h : m.length + C.length ≤ cap) :
    Memory.wf cap (m.append C) = true := by
  simpa [Memory.wf_iff, Memory.append] using h

theorem Memory.byte_dropFront (m : Memory) (n a : Nat) : (m.dropFront n).byte a = m.byte (n + a) := by
  simp [Memory.byte, Memory.dropFront]

theorem Memory.byte_append_left (m : Memory) (C : List Byte) {a : Nat} (h : a < m.length) :
    (m.append C).byte a = m.byte a := by
  simp [Memory.byte, Memory.append, List.getElem?_append_left h]

theorem Memory.byte_append_right (m : Memory) (C : List Byte) {a : Nat} (h : m.length ≤ a) :
    (m.append C).byte a = C[a - m.length]? := by
  simp [Memory.byte, Memory.append, List.getElem?_append_right h]

theorem State.reset_memory_wf : Memory.wf State.reset.cfg.bufCap State.reset.buf = true := by decide

end Sys2Proof.Machine
end

