-- ==== Sys2Proof/Laws/Exec.lean ====
section
/-! SUPPORT. What the shared operations, `exec` and `step` can do, said once: if one answers a next state, then one of the
listed cases holds. Invariants are derived from these and do not unfold the meanings. -/

namespace Sys2Proof.Machine

/-! ### The shared operations -/

@[simp] theorem acceptRegs_buf (k : InKind) (F : List Byte) (s : State) : (acceptRegs k F s).buf = s.buf := by cases k <;> rfl
@[simp] theorem acceptRegs_syncBusy (k : InKind) (F : List Byte) (s : State) : (acceptRegs k F s).syncBusy = s.syncBusy := by
  cases k <;> rfl
@[simp] theorem acceptRegs_txnCtr (k : InKind) (F : List Byte) (s : State) : (acceptRegs k F s).txnCtr = s.txnCtr := by
  cases k <;> rfl
@[simp] theorem acceptRegs_waiters (k : InKind) (F : List Byte) (s : State) : (acceptRegs k F s).waiters = s.waiters := by
  cases k <;> rfl
@[simp] theorem acceptRegs_out (k : InKind) (F : List Byte) (s : State) : (acceptRegs k F s).out = s.out := by cases k <;> rfl
@[simp] theorem acceptRegs_results (k : InKind) (F : List Byte) (s : State) : (acceptRegs k F s).results = s.results := by
  cases k <;> rfl
@[simp] theorem acceptRegs_cfg (k : InKind) (F : List Byte) (s : State) : (acceptRegs k F s).cfg = s.cfg := by cases k <;> rfl
@[simp] theorem acceptRegs_offered (k : InKind) (F : List Byte) (s : State) : (acceptRegs k F s).offered = s.offered := by
  cases k <;> rfl
@[simp] theorem acceptRegs_sched (k : InKind) (F : List Byte) (s : State) : (acceptRegs k F s).sched = s.sched := by
  cases k <;> rfl
@[simp] theorem acceptRegs_draws (k : InKind) (F : List Byte) (s : State) : (acceptRegs k F s).draws = s.draws := by
  cases k <;> rfl

theorem acceptRegs_lastAckId (k : InKind) (F : List Byte) (s : State) :
    (acceptRegs k F s).lastAckId = if k = .ack then byteAt F 1 else s.lastAckId := by cases k <;> rfl

theorem acceptRegs_lastNackId (k : InKind) (F : List Byte) (s : State) :
    (acceptRegs k F s).lastNackId = if k = .nack then byteAt F 1 else s.lastNackId := by cases k <;> rfl

theorem acceptRegs_lastNackReason (k : InKind) (F : List Byte) (s : State) :
    (acceptRegs k F s).lastNackReason = if k = .nack then byteAt F 2 else s.lastNackReason := by cases k <;> rfl

/-- The window at the front of the buffer, when one of kind k is complete. -/
theorem read_front_length {c : Config} {m : Memory} {k : InKind} (h : front c m = .complete k) :
    (m.read 0 (inboundSize k)).length = inboundSize k := by
  have := (front_complete_iff.mp h).2
  simp only [Memory.read, List.drop_zero, List.length_take]
  omega

theorem front_of_cons {c : Config} {b : Byte} {B : List Byte} {k : InKind} (h : c.kindOf b = some k) :
    front c (b :: B) = if (b :: B).length < inboundSize k then .incomplete k else .complete k := by
  simp [front, h]

/-- FRAME_SIZE(k) bytes that begin with k's ID are a complete window of kind k, whatever follows. -/
theorem front_of_frame {c : Config} {k : InKind} {F B : List Byte} (hl : F.length = inboundSize k)
    (hk : c.kindOf (byteAt F 0) = some k) : front c (F ++ B) = .complete k := by
  have hp := inboundSize_pos k
  refine front_complete_iff.mpr ⟨⟨byteAt F 0, ?_, hk⟩, by simp; omega⟩
  cases F with
  | nil => simp at hl; omega
  | cons a F => rfl

theorem read_of_frame {n : Nat} {F B : List Byte} (hl : F.length = n) : Memory.read (F ++ B) 0 n = F := by
  simp [Memory.read, ← hl]

/-- What an ACCEPT changes, field by field. -/
theorem accept_eq {k : InKind} {F B : List Byte} {s : State} (hb : s.buf = F ++ B) (hl : F.length = inboundSize k) :
    accept k F s =
      { s with
        buf := B
        out := s.out ++ [⟨k, F⟩]
        lastAckId := if k = .ack then byteAt F 1 else s.lastAckId
        lastNackId := if k = .nack then byteAt F 1 else s.lastNackId
        lastNackReason := if k = .nack then byteAt F 2 else s.lastNackReason
        results := s.results ++ [.parsed (.accept k)] } := by
  have hd : s.buf.dropFront (inboundSize k) = B := by simp [Memory.dropFront, hb, ← hl]
  simp only [accept, hd]
  cases k <;> rfl

/-- A parse step that goes on to a next state takes one of the five outcomes of R113. -/
theorem execParseStep_cases {s t : State} (h : execParseStep s = .next t) :
    s.syncBusy = true ∧
      ((s.buf = [] ∧ t = haltEmpty s) ∨
       ((∃ b, s.buf.head? = some b ∧ s.cfg.kindOf b = none) ∧ t = dropUnrecognized s) ∨
       ((∃ k, front s.cfg s.buf = .incomplete k) ∧ t = haltIncomplete s) ∨
       (∃ k, front s.cfg s.buf = .complete k ∧ crcMatches (s.buf.read 0 (inboundSize k)) (inboundSize k) = true ∧
          t = accept k (s.buf.read 0 (inboundSize k)) s) ∨
       (∃ k, front s.cfg s.buf = .complete k ∧ crcMatches (s.buf.read 0 (inboundSize k)) (inboundSize k) = false ∧
          t = dropBadCrc s)) := by
  unfold execParseStep at h
  split at h
  · cases h
  · rename_i hb
    refine ⟨by simpa using hb, ?_⟩
    split at h <;> rename_i hf <;> cases h
    · exact .inl ⟨front_empty_iff.mp hf, rfl⟩
    · exact .inr (.inl ⟨front_unrecognized_iff.mp hf, rfl⟩)
    · exact .inr (.inr (.inl ⟨⟨_, hf⟩, rfl⟩))
    · rename_i k
      cases hm : crcMatches (s.buf.read 0 (inboundSize k)) (inboundSize k)
      · exact .inr (.inr (.inr (.inr ⟨k, hf, hm, by simp [finishFrame, hm]⟩)))
      · exact .inr (.inr (.inr (.inl ⟨k, hf, hm, by simp [finishFrame, hm]⟩)))

/-- A frame instruction that goes on to a next state is a parse step. -/
theorem receive_eq_parseStep {k : InKind} {F : List Byte} {s t : State} (h : receive k F s = .next t) :
    execParseStep s = .next t := by
  unfold receive at h
  split at h
  · cases h
  · rename_i hb
    split at h
    · rename_i hf
      obtain ⟨hf, rfl⟩ := hf
      rw [execParseStep, if_neg hb, hf]
      exact h
    · cases h

/-- The frame TX_ASSEMBLE builds is the sealed frame body, however large the host's buffer is (R152). -/
theorem txFrame_eq (c : Config) (k : OutKind) (t : Byte) (P : List Byte) (cap : Nat) :
    txFrame c k t P cap = sealed ([c.outboundId k, t] ++ P) := by
  have hb : (txBuffer c k t P cap).take (2 + P.length) = [c.outboundId k, t] ++ P := by
    simp [txBuffer, Nat.add_comm 2]
  have hl : (sealed ([c.outboundId k, t] ++ P)).length = outLength P := by
    simp [sealed, outLength]
    omega
  simp only [txFrame, appended, hb]
  rw [← hl, List.take_left]

/-- An assembly that goes on to a next state is the zero-length result or a frame (R152). -/
theorem assemble_cases {k : OutKind} {P : List Byte} {cap : Nat} {s t : State} (h : assemble k P cap s = .next t) :
    payloadOk s.cfg k P = true ∧
      ((k = .setRegisterGroup ∧ cap < outLength P ∧ t = s.ret (.assembled [] 0 none)) ∨
       (outLength P ≤ cap ∧
          t = (advanceTxn s).ret (.assembled (txFrame s.cfg k s.txnCtr P cap) (outLength P) (some s.txnCtr)))) := by
  unfold assemble at h
  split at h
  · cases h
  · rename_i hp
    refine ⟨by simpa using hp, ?_⟩
    split at h
    · rename_i hg
      cases h
      exact .inl ⟨hg.1, hg.2, rfl⟩
    · split at h
      · cases h
      · rename_i hc
        cases h
        exact .inr ⟨by omega, rfl⟩

/-! ### exec -/

/-- The ways an instruction changes the state. -/
inductive Effect (s : State) : State → Prop where
  /-- a result, no waiter's, and nothing else -/
  | returns (r : Result) (hr : ∀ T o, r ≠ .waited T o) : Effect s (s.ret r)
  /-- the transaction counter advances, and its old value is returned -/
  | allocates (r : Result) (hr : r = .txid s.txnCtr ∨ ∃ F len, r = .assembled F len (some s.txnCtr)) :
      Effect s ((advanceTxn s).ret r)
  /-- an admitted push -/
  | pushes (C : List Byte) (hb : s.syncBusy = false) (hc : chunkOk C = true) (hf : s.buf.length + C.length ≤ s.cfg.bufCap) :
      Effect s ((s.setBuf (s.buf.append C)).setBusy true)
  /-- an operation that holds -/
  | holds (i : Instr) : Effect s (s.hold i)
  /-- a parse step -/
  | parses (t : State) (h : execParseStep s = .next t) : Effect s t
  /-- FLUSH -/
  | flushes : Effect s (clearSync s)
  /-- a waiter starts -/
  | waits (T : Byte) : Effect s (s.setWaiters (s.waiters ++ [⟨T, firstPhase s.cfg.waitCheckOrder⟩]))
  /-- SESSION_INIT -/
  | inits (h : s.waiting = false) : Effect s (clearSession s)
  /-- RESET -/
  | resets (h : s.waiting = false) : Effect s ((clearSession s).setTxnCtr s.cfg.txnCtrInit)

theorem assemble_effect {k : OutKind} {P : List Byte} {cap : Nat} {s t : State} (h : assemble k P cap s = .next t) :
    Effect s t := by
  obtain ⟨-, ⟨-, -, rfl⟩ | ⟨-, rfl⟩⟩ := assemble_cases h
  · exact .returns _ (by simp)
  · exact .allocates _ (.inr ⟨_, _, rfl⟩)

/-- An inbound frame instruction runs as the receipt of its bytes. -/
theorem exec_inFrame {i : Instr} {s : State} {k : InKind} {F : List Byte} (h : i.inFrame s.cfg = some (k, F)) :
    exec i s = receive k F s := by
  cases i <;> simp only [Instr.inFrame, Option.some.injEq, Prod.mk.injEq, reduceCtorEq] at h <;>
    obtain ⟨rfl, rfl⟩ := h <;> rfl

/-- What one instruction can do. -/
theorem exec_cases {i : Instr} {s t : State} (h : exec i s = .next t) : Effect s t := by
  cases i with
  | getStatus cap => exact assemble_effect (k := .getStatus) (P := []) (cap := cap) h
  | getDeviceInfo cap => exact assemble_effect (k := .getDeviceInfo) (P := []) (cap := cap) h
  | setMode P cap => exact assemble_effect h
  | setRegister b a v cap => exact assemble_effect (k := .setRegister) (P := [b, a, v]) (cap := cap) h
  | setRegisterGroup ts cap =>
    simp only [exec, execSetRegisterGroup] at h
    split at h
    · cases h
    · exact assemble_effect h
  | setLeds r g b cap => exact assemble_effect (k := .setLeds) (P := [r, g, b]) (cap := cap) h
  | resetBootloader m cap => exact assemble_effect (k := .resetBootloader) (P := [m]) (cap := cap) h
  | status a b c d e => exact .parses _ (receive_eq_parseStep h)
  | deviceInfo a b c d e f => exact .parses _ (receive_eq_parseStep h)
  | coordinate a b => exact .parses _ (receive_eq_parseStep h)
  | extendedCoordinates a b => exact .parses _ (receive_eq_parseStep h)
  | ack a b => exact .parses _ (receive_eq_parseStep h)
  | nack a b c => exact .parses _ (receive_eq_parseStep h)
  | crcCompute B n =>
    simp only [exec, execCrcCompute] at h
    split at h <;> cases h
    exact .returns _ (by simp)
  | crcAppend B n cap =>
    simp only [exec, execCrcAppend] at h
    split at h <;> cases h
    exact .returns _ (by simp)
  | crcCheck B n =>
    simp only [exec, execCrcCheck] at h
    split at h <;> cases h
    exact .returns _ (by simp)
  | rxPush C =>
    simp only [exec, execRxPush] at h
    split at h
    · cases h
      exact .holds _
    · split at h
      · cases h
      · split at h <;> cases h
        rename_i hb hc hf
        exact .pushes C (by simpa using hb) (by simpa using hc) (by omega)
  | parseStep => exact .parses _ h
  | flush =>
    cases h
    exact .flushes
  | txnAlloc =>
    cases h
    exact .allocates _ (.inl rfl)
  | txAssemble k P cap =>
    cases k with
    | inbound k => cases h
    | outbound k => exact assemble_effect h
  | txnWait T =>
    cases h
    exact .waits T
  | readRegs =>
    cases h
    exact .returns _ (by simp)
  | sessionInit =>
    simp only [exec, execSessionInit] at h
    split at h <;> cases h
    rename_i hw
    exact .inits (by simpa using hw)
  | reset =>
    simp only [exec, execReset] at h
    split at h <;> cases h
    rename_i hw
    exact .resets (by simpa using hw)

/-! ### step -/

/-- What a waiter's step can do: nothing, a change of its phase, or a change of its phase with its outcome returned. -/
theorem waiterStep_cases (n : Nat) (d : Bool) (s : State) :
    waiterStep n d s = s ∨ (∃ ws, waiterStep n d s = s.setWaiters ws) ∨
      (∃ ws T o, waiterStep n d s = (s.setWaiters ws).ret (.waited T o)) := by
  unfold waiterStep
  split
  · exact .inl rfl
  · split
    · split
      · exact .inr (.inr ⟨_, _, _, rfl⟩)
      all_goals exact .inr (.inl ⟨_, rfl⟩)
    · exact .inl rfl

/-- The states that differ from s at most in the turns to come, the free draws taken and the operations offered: what choosing
a turn may change. -/
def SameBlock (s t : State) : Prop :=
  t = { s with offered := t.offered, sched := t.sched, draws := t.draws }

theorem takeTurn_sameBlock (s : State) : SameBlock s (takeTurn s).2 := by
  unfold takeTurn
  split
  · rfl
  · simp only [afterDefault]
    split
    · split <;> rfl
    all_goals rfl

/-- What one step can do, from a state `u` that differs from s only in what choosing a turn changes: nothing, one instruction's
effect, or one waiter's step. -/
theorem step_cases {s t : State} (h : step s = .next t) :
    s.cfg.valid = true ∧ ∃ u, SameBlock s u ∧ (t = u ∨ Effect u t ∨ ∃ n d, t = waiterStep n d u) := by
  unfold step runStep at h
  split at h
  · rename_i hv
    refine ⟨hv, ?_⟩
    have hs := takeTurn_sameBlock s
    generalize (takeTurn s).2 = u at h hs
    generalize (takeTurn s).1 = turn at h
    cases turn with
    | host =>
      simp only [runTurn] at h
      split at h
      · cases h
        exact ⟨_, hs, .inl rfl⟩
      · rename_i i q _
        refine ⟨u.setOffered q, ?_, .inr (.inl (exec_cases h))⟩
        rw [SameBlock] at hs ⊢
        rw [hs]
        rfl
    | sync =>
      simp only [runTurn] at h
      split at h
      · exact ⟨u, hs, .inr (.inl (exec_cases h))⟩
      · cases h
        exact ⟨_, hs, .inl rfl⟩
    | waiter n d =>
      cases h
      exact ⟨u, hs, .inr (.inr ⟨n, d, rfl⟩)⟩
  · cases h

/-- Choosing a turn changes nothing of the block. -/
theorem SameBlock.fields {s u : State} (h : SameBlock s u) :
    u.buf = s.buf ∧ u.syncBusy = s.syncBusy ∧ u.txnCtr = s.txnCtr ∧ u.lastAckId = s.lastAckId ∧
      u.lastNackId = s.lastNackId ∧ u.lastNackReason = s.lastNackReason ∧ u.waiters = s.waiters ∧ u.out = s.out ∧
      u.results = s.results ∧ u.cfg = s.cfg := by
  rw [h]
  simp

/-- To show something of every step, show it of choosing a turn, of one instruction's effect and of a waiter's step. -/
theorem step_induction {Q : State → State → Prop} {s t : State} (h : step s = .next t)
    (choose : ∀ u, SameBlock s u → Q s u) (run : ∀ u, SameBlock s u → ∀ t, Effect u t → Q s t)
    (wait : ∀ u, SameBlock s u → ∀ n d, Q s (waiterStep n d u)) : Q s t := by
  obtain ⟨-, u, hu, rfl | he | ⟨n, d, rfl⟩⟩ := step_cases h
  · exact choose _ hu
  · exact run u hu t he
  · exact wait u hu n d

end Sys2Proof.Machine
end

