-- ==== Sys2Proof/Laws/PerInstr.lean ====
section
/-! SUPPORT. One statement about every constructor of `Instr`, one lemma each: what its encoding's length is
(spec/30_encoding.md R62, spec/41_synchronizer.md R111 b). -/

namespace Sys2Proof.Laws.EncodedLength

/-- Every encoding of the instruction has at least four bytes, and one of inbound kind k has `FRAME_SIZE(k)`. -/
def Statement (i : Instr) : Prop :=
  ∀ (c : Config) (st : Stamp) (F : List Byte), encode c st i = some F →
    4 ≤ F.length ∧ ∀ k B, i.inFrame c = some (k, B) → F.length = inboundSize k

/-- An outbound frame has its payload's length and four bytes more. -/
theorem of_outbound {i : Instr} {k : OutKind} {P : List Byte} (hi : ∀ c, i.inFrame c = none)
    (ho : i.outPayload = some (k, P)) : Statement i := by
  intro c st F h
  simp only [encode, hi c, ho, Option.some.injEq] at h
  subst h
  simp [outboundBytes, hi c]

/-- An inbound frame has its kind's size. -/
theorem of_inbound {i : Instr} (hi : ∀ c, (i.inFrame c).isSome = true) : Statement i := by
  intro c st F h
  obtain ⟨⟨k, B⟩, hk⟩ := Option.isSome_iff_exists.mp (hi c)
  simp only [encode, hk, Option.some.injEq] at h
  subst h
  have hl := inFrame_length hk
  refine ⟨hl ▸ inboundSize_pos k, fun k' B' h' => ?_⟩
  rw [hk] at h'
  cases h'
  exact hl

/-- A port operation has no encoding. -/
theorem of_port {i : Instr} (hi : ∀ c, i.inFrame c = none) (ho : i.outPayload = none) : Statement i := by
  intro c st F h
  simp [encode, hi c, ho] at h

theorem getStatus (cap : Nat) : Statement (.getStatus cap) := of_outbound (fun _ => rfl) rfl
theorem getDeviceInfo (cap : Nat) : Statement (.getDeviceInfo cap) := of_outbound (fun _ => rfl) rfl
theorem setMode (P : List Byte) (cap : Nat) : Statement (.setMode P cap) := of_outbound (fun _ => rfl) rfl
theorem setRegister (b a v : Byte) (cap : Nat) : Statement (.setRegister b a v cap) := of_outbound (fun _ => rfl) rfl
theorem setRegisterGroup (ts : List RegTriple) (cap : Nat) : Statement (.setRegisterGroup ts cap) :=
  of_outbound (fun _ => rfl) rfl
theorem setLeds (r g b : Byte) (cap : Nat) : Statement (.setLeds r g b cap) := of_outbound (fun _ => rfl) rfl
theorem resetBootloader (m : Byte) (cap : Nat) : Statement (.resetBootloader m cap) := of_outbound (fun _ => rfl) rfl
theorem status (t st mo : Byte) (up : Long) (crc : Half) : Statement (.status t st mo up crc) := of_inbound fun _ => rfl
theorem deviceInfo (t hw ma mi : Byte) (sn : Long) (crc : Half) : Statement (.deviceInfo t hw ma mi sn crc) :=
  of_inbound fun _ => rfl
theorem coordinate (ps : Vector Point 16) (crc : Half) : Statement (.coordinate ps crc) := of_inbound fun _ => rfl
theorem extendedCoordinates (rs : Vector ExtRecord 16) (crc : Half) : Statement (.extendedCoordinates rs crc) :=
  of_inbound fun _ => rfl
theorem ack (t : Byte) (crc : Half) : Statement (.ack t crc) := of_inbound fun _ => rfl
theorem nack (t r : Byte) (crc : Half) : Statement (.nack t r crc) := of_inbound fun _ => rfl
theorem crcCompute (B : List Byte) (n : Nat) : Statement (.crcCompute B n) := of_port (fun _ => rfl) rfl
theorem crcAppend (B : List Byte) (n cap : Nat) : Statement (.crcAppend B n cap) := of_port (fun _ => rfl) rfl
theorem crcCheck (B : List Byte) (n : Nat) : Statement (.crcCheck B n) := of_port (fun _ => rfl) rfl
theorem rxPush (C : List Byte) : Statement (.rxPush C) := of_port (fun _ => rfl) rfl
theorem parseStep : Statement .parseStep := of_port (fun _ => rfl) rfl
theorem flush : Statement .flush := of_port (fun _ => rfl) rfl
theorem txnAlloc : Statement .txnAlloc := of_port (fun _ => rfl) rfl
theorem txAssemble (k : Kind) (P : List Byte) (cap : Nat) : Statement (.txAssemble k P cap) := of_port (fun _ => rfl) rfl
theorem txnWait (T : Byte) : Statement (.txnWait T) := of_port (fun _ => rfl) rfl
theorem readRegs : Statement .readRegs := of_port (fun _ => rfl) rfl
theorem sessionInit : Statement .sessionInit := of_port (fun _ => rfl) rfl
theorem reset : Statement .reset := of_port (fun _ => rfl) rfl

end Sys2Proof.Laws.EncodedLength
end

