-- ==== Sys2Proof/Laws/Runs.lean ====
section
/-! SUPPORT. What making a choice changes, what an instruction does to the queues of turns and offers, and what a step does to one
waiter: the facts that statements about runs are derived from. -/

namespace Sys2Proof.Machine

/-! ### Making a choice -/

variable (c : Choice) (s : State)

@[simp] theorem State.choose_buf : (s.choose c).buf = s.buf := rfl
@[simp] theorem State.choose_syncBusy : (s.choose c).syncBusy = s.syncBusy := rfl
@[simp] theorem State.choose_txnCtr : (s.choose c).txnCtr = s.txnCtr := rfl
@[simp] theorem State.choose_lastAckId : (s.choose c).lastAckId = s.lastAckId := rfl
@[simp] theorem State.choose_lastNackId : (s.choose c).lastNackId = s.lastNackId := rfl
@[simp] theorem State.choose_lastNackReason : (s.choose c).lastNackReason = s.lastNackReason := rfl
@[simp] theorem State.choose_waiters : (s.choose c).waiters = s.waiters := rfl
@[simp] theorem State.choose_out : (s.choose c).out = s.out := rfl
@[simp] theorem State.choose_results : (s.choose c).results = s.results := rfl
@[simp] theorem State.choose_cfg : (s.choose c).cfg = s.cfg := rfl
@[simp] theorem State.choose_offered : (s.choose c).offered = s.offered ++ c.offers := rfl
@[simp] theorem State.choose_sched : (s.choose c).sched = [c.turn] := rfl
@[simp] theorem State.choose_draws : (s.choose c).draws = s.draws := rfl

/-! ### The queues -/

/-- A parse step leaves the turns, the offers and the waiters. -/
theorem execParseStep_queues {s t : State} (h : execParseStep s = .next t) :
    t.sched = s.sched ∧ t.offered = s.offered ∧ t.waiters = s.waiters := by
  obtain ⟨-, ⟨-, rfl⟩ | ⟨-, rfl⟩ | ⟨-, rfl⟩ | ⟨k, -, -, rfl⟩ | ⟨k, -, -, rfl⟩⟩ := execParseStep_cases h <;>
    simp [haltEmpty, dropUnrecognized, haltIncomplete, accept, dropBadCrc]

/-- An instruction's effect leaves the turns, and leaves the offers or puts one operation, which holds, back in front. -/
theorem Effect.queues {s t : State} (h : Effect s t) :
    t.sched = s.sched ∧ (t.offered = s.offered ∨ ∃ i, t = s.hold i) := by
  cases h with
  | parses t h => exact ⟨(execParseStep_queues h).1, .inl (execParseStep_queues h).2.1⟩
  | holds i => exact ⟨by simp [State.hold], .inr ⟨i, rfl⟩⟩
  | returns | allocates | pushes | flushes | waits | inits | resets => simp [advanceTxn, clearSync, clearSession]

/-! ### One waiter -/

/-- An instruction's effect leaves every waiter there is. -/
theorem Effect.waiter {s t : State} (h : Effect s t) {i : Nat} {w : Waiter} (hw : s.waiters[i]? = some w) :
    t.waiters[i]? = some w := by
  cases h with
  | parses t h => rw [(execParseStep_queues h).2.2]; exact hw
  | waits T =>
    have hl := (List.getElem?_eq_some_iff.mp hw).1
    simp [List.getElem?_append_left hl, hw]
  | returns | allocates | pushes | flushes | holds | inits | resets =>
    simpa [advanceTxn, clearSync, clearSession, State.hold] using hw

/-- A waiter's step leaves a waiter, or moves one in progress to a phase of its loop, and to DONE only with its outcome returned. -/
theorem waiterStep_waiter (n : Nat) (d : Bool) {s : State} {i : Nat} {w : Waiter} (hw : s.waiters[i]? = some w) :
    (waiterStep n d s).waiters[i]? = some w ∨
      (w.inProgress = true ∧ ∃ p, (waiterStep n d s).waiters[i]? = some ⟨w.target, p⟩ ∧
        ∀ o, p = .done o → (waiterStep n d s).results = s.results ++ [.waited w.target o]) := by
  unfold waiterStep
  by_cases hn : n = i
  · subst hn
    have hl := (List.getElem?_eq_some_iff.mp hw).1
    by_cases hp : w.inProgress = true
    · refine .inr ⟨hp, nextPhase s d w, ?_⟩
      simp only [hw, if_pos hp]
      cases nextPhase s d w <;> simp [hl]
    · simp only [hw, if_neg hp]
      exact .inl trivial
  · left
    split
    · exact hw
    · split
      · split <;> simpa [List.getElem?_set_ne hn] using hw
      · exact hw

/-- What one step does to one waiter. -/
theorem step_waiter {s t : State} (h : step s = .next t) {i : Nat} {w : Waiter} (hw : s.waiters[i]? = some w) :
    t.waiters[i]? = some w ∨
      (w.inProgress = true ∧ ∃ p, t.waiters[i]? = some ⟨w.target, p⟩ ∧
        ∀ o, p = .done o → t.results = s.results ++ [.waited w.target o]) := by
  obtain ⟨-, u, hu, ht⟩ := step_cases h
  obtain ⟨-, -, -, -, -, -, e, -, er, -⟩ := hu.fields
  rw [← e] at hw
  rw [← er]
  obtain rfl | he | ⟨n, d, rfl⟩ := ht
  · exact .inl hw
  · exact .inl (he.waiter hw)
  · exact waiterStep_waiter n d hw

end Sys2Proof.Machine
end

