-- ==== Sys2Proof/Tests/Slice0.lean ====
section
/-! SUPPORT. Tests: ill-formed terms the checks refuse, words written out from the spec's layouts, single steps with results
from spec/95_test_vectors.md (the V, X and P numbers), and a witness for the hypotheses of every statement that has some. Kind IDs
are the test-only ones of that file's section 0. -/

namespace Sys2Proof.Tests

open Sys2Proof Sys2Proof.Machine

set_option maxRecDepth 100000

/-! ### Helpers -/

/-- The next state of an outcome. -/
def nextOf : Outcome → Option State
  | .next s => some s
  | .fault _ => none
  | .refused _ => none

/-- The refusal of an outcome. -/
def refusalOf : Outcome → Option Refusal
  | .next _ => none
  | .fault _ => none
  | .refused r => some r

/-- The fault of an outcome. -/
def faultOf : Outcome → Option Fault
  | .next _ => none
  | .fault r => some r
  | .refused _ => none

/-- The last result returned. -/
def lastResult (o : Outcome) : Option Result := (nextOf o).bind fun s => s.results.getLast?

/-- The test configuration. -/
def tc : Config := Config.testConfig

/-- The reset state with bytes in the buffer still to be parsed. -/
def withBytes (F : List Byte) : State := (State.reset.setBuf F).setBusy true

/-- The reset state with a counter. -/
def withCtr (t : Byte) : State := State.reset.setTxnCtr t

/-- The reset state with last-seen registers, one waiter, and its turn next. -/
def withWaiter (ack nack : Byte) (w : Waiter) (draw : Bool) : State :=
  (((State.reset.setAck ack).setNack nack 0x00).setWaiters [w]).setSched [.waiter 0 draw]

/-- The same under ACK_FIRST. -/
def ackFirst (s : State) : State := { s with cfg := { s.cfg with waitCheckOrder := .ackFirst } }

/-- The phases of the waiters after an outcome. -/
def phases (o : Outcome) : Option (List WaitPhase) := (nextOf o).map fun s => s.waiters.map Waiter.phase

/-- S of section 0. -/
def frameS : List Byte := [0x02, 0x05, 0x03, 0x01, 0x00, 0x00, 0x01, 0x2C, 0x75, 0x51]

/-- A05 of section 0. -/
def frameA05 : List Byte := [0x10, 0x05, 0x4E, 0xD9]

/-- N0207 of section 0. -/
def frameN0207 : List Byte := [0x11, 0x02, 0x07, 0xAE, 0x4A]

/-- D of section 0. -/
def frameD : List Byte := [0x12, 0x09, 0x01, 0x02, 0x03, 0x12, 0x34, 0x56, 0x78, 0xBD, 0x3D]

/-- C of section 0. -/
def frameC : List Byte := [0x13, 0x00, 0x64, 0x00, 0xC8, 0x32] ++ List.replicate 75 0x00 ++ [0xF9, 0x9C]

/-- E of section 0. -/
def frameE : List Byte :=
  [0x14, 0x01, 0x02, 0xC1, 0x23, 0x7F, 0xFF, 0x80, 0x90, 0xA5, 0x10, 0x20, 0x30, 0x40, 0x55, 0x66, 0x77] ++
    List.replicate 240 0x00 ++ [0xD0, 0x3F]

/-- Nineteen times the triple [01 02 03] (V48a). -/
def triples19 : List RegTriple := List.replicate 19 ⟨0x01, 0x02, 0x03⟩

/-- The points of C. -/
def pointsC : Vector Point 16 := recordVec pointOf 5 16 (frameC.drop 1)

/-- The records of E. -/
def recordsE : Vector ExtRecord 16 := recordVec extRecordOf 16 16 (frameE.drop 1)

/-! ### Ill-formed terms -/

theorem test_wf_bad_crc : Instr.wellFormed tc (.ack 0x05 0x4ED8) = false := by decide
theorem test_wf_good_crc : Instr.wellFormed tc (.ack 0x05 0x4ED9) = true := by decide
theorem test_wf_set_mode_length : Instr.wellFormed tc (.setMode [0x01, 0x00] 7) = false := by decide
theorem test_wf_group_count : Instr.wellFormed tc (.setRegisterGroup (List.replicate 20 ⟨0, 0, 0⟩) 100) = false := by decide
theorem test_wf_cap : Instr.wellFormed tc (.setLeds 0x01 0x02 0x00 6) = false := by decide
theorem test_wf_payload : Instr.wellFormed tc (.txAssemble (.outbound .setRegister) [0x01, 0x20] 16) = false := by decide
theorem test_wf_inbound : Instr.wellFormed tc (.txAssemble (.inbound .status) [] 16) = false := by decide
theorem test_wf_compute : Instr.wellFormed tc (.crcCompute [0x01, 0x02] 3) = false := by decide
theorem test_wf_append_room : Instr.wellFormed tc (.crcAppend [0x01, 0x02, 0x00] 2 3) = false := by decide
theorem test_wf_append_cap : Instr.wellFormed tc (.crcAppend [0x01, 0x02, 0x00, 0x00, 0x00] 2 4) = false := by decide
theorem test_wf_check_short : Instr.wellFormed tc (.crcCheck [0x01] 1) = false := by decide
theorem test_wf_check_long : Instr.wellFormed tc (.crcCheck [0x01, 0x02] 3) = false := by decide
theorem test_wf_push_empty : Instr.wellFormed tc (.rxPush []) = false := by decide
theorem test_wf_push_long : Instr.wellFormed tc (.rxPush (List.replicate 260 0x00)) = false := by decide +kernel
theorem test_config_shared_id : ({ tc with idAck := 0x02 } : Config).valid = false := by decide
theorem test_config_valid : tc.valid = true := by decide

/-! ### Decoding words written out from R65 to R76 -/

theorem test_decode_status : decode tc frameS = .ok ⟨.status 0x05 0x03 0x01 0x0000012C 0x7551, none, []⟩ := by rfl
theorem test_decode_device_info :
    decode tc frameD = .ok ⟨.deviceInfo 0x09 0x01 0x02 0x03 0x12345678 0xBD3D, none, []⟩ := by rfl
theorem test_decode_coordinate :
    (recordsOf pointOf 5 16 (frameC.drop 1)).take 2 = [⟨0x0064, 0x00C8, 0x32⟩, ⟨0, 0, 0⟩] ∧
      decode tc frameC = .ok ⟨.coordinate pointsC 0xF99C, none, []⟩ := by
  constructor <;> rfl
theorem test_decode_extended :
    (recordsOf extRecordOf 16 16 (frameE.drop 1)).take 1 =
        [⟨0x0102, 0xC123, 0x7FFF, 0x80, 0x90, 0xA, 0x5, 0x10, 0x20, 0x30, 0x40, 0x55, 0x66, 0x77⟩] ∧
      decode tc frameE = .ok ⟨.extendedCoordinates recordsE 0xD03F, none, []⟩ := by
  constructor <;> rfl
theorem test_decode_ack : decode tc frameA05 = .ok ⟨.ack 0x05 0x4ED9, none, []⟩ := by rfl
theorem test_decode_nack : decode tc frameN0207 = .ok ⟨.nack 0x02 0x07 0xAE4A, none, []⟩ := by rfl
theorem test_decode_get_status :
    decode tc [0x20, 0x00, 0x1B, 0xE9] = .ok ⟨.getStatus 4, some ⟨0x00, 0x1BE9⟩, []⟩ := by rfl
theorem test_decode_get_device_info :
    decode tc [0x21, 0x01, 0x38, 0xF9] = .ok ⟨.getDeviceInfo 4, some ⟨0x01, 0x38F9⟩, []⟩ := by rfl
theorem test_decode_set_mode :
    decode tc [0x22, 0x03, 0x01, 0x00, 0x00, 0xF1, 0xD7] =
      .ok ⟨.setMode [0x01, 0x00, 0x00] 7, some ⟨0x03, 0xF1D7⟩, []⟩ := by rfl
theorem test_decode_set_register :
    decode tc [0x23, 0x05, 0x01, 0x20, 0xFF, 0x64, 0x09] =
      .ok ⟨.setRegister 0x01 0x20 0xFF 7, some ⟨0x05, 0x6409⟩, []⟩ := by rfl
theorem test_decode_set_register_group :
    decode tc [0x24, 0x07, 0x02, 0x01, 0x20, 0xFF, 0x01, 0x21, 0x00, 0x80, 0xCA] =
      .ok ⟨.setRegisterGroup [⟨0x01, 0x20, 0xFF⟩, ⟨0x01, 0x21, 0x00⟩] 11, some ⟨0x07, 0x80CA⟩, []⟩ := by rfl
theorem test_decode_set_leds :
    decode tc [0x25, 0x02, 0x01, 0x02, 0x00, 0x86, 0xD5] =
      .ok ⟨.setLeds 0x01 0x02 0x00 7, some ⟨0x02, 0x86D5⟩, []⟩ := by rfl
theorem test_decode_reset_bootloader :
    decode tc [0x26, 0x04, 0x01, 0x24, 0x1F] = .ok ⟨.resetBootloader 0x01 5, some ⟨0x04, 0x241F⟩, []⟩ := by rfl
theorem test_decode_group_too_many : decode tc (0x24 :: 0x00 :: 20 :: List.replicate 70 0x00) = .error .groupCount := by rfl
theorem test_decode_unassigned : decode tc [0xAA, 0x02] = .error .unassignedId := by rfl
theorem test_decode_incomplete : decode tc [0x02, 0x05, 0x03] = .error .incomplete := by rfl
theorem test_decode_empty : decode tc [] = .error .empty := by rfl
theorem test_table_word : decodeTableWord 32 0xD94E0510 = some (.ack 0x05 0x4ED9) := by decide +kernel
theorem test_encode_status : encode tc ⟨0, 0⟩ (.status 0x05 0x03 0x01 300 0x7551) = some frameS := by decide
theorem test_encode_set_register :
    encode tc ⟨0x05, 0x6409⟩ (.setRegister 0x01 0x20 0xFF 7) = some [0x23, 0x05, 0x01, 0x20, 0xFF, 0x64, 0x09] := by decide
theorem test_frame_literal : frameLit tc (.inbound .status) 0x05 [0x03, 0x01, 0x00, 0x00, 0x01, 0x2C] = frameS := by decide
theorem test_frame_literal_streaming :
    frameLit tc (.inbound .coordinate) 0x00 ((frameC.drop 1).take 80) = frameC := by decide +kernel

/-! ### The CRC unit (V1 to V12c) -/

theorem test_crc_catalogue : crc16 [0x31, 0x32, 0x33, 0x34, 0x35, 0x36, 0x37, 0x38, 0x39] = 0x29B1 := by decide
theorem test_crc_compute : lastResult (exec (.crcCompute [0x01, 0x02, 0x03] 2) .reset) = some (.crc 0x0E7C) := by decide
theorem test_crc_compute_zero : lastResult (exec (.crcCompute [] 0) .reset) = some (.crc 0xFFFF) := by decide
theorem test_crc_append :
    lastResult (exec (.crcAppend [0x00, 0x00, 0xAA] 0 3) .reset) = some (.appended [0xFF, 0xFF, 0xAA] 2) := by decide
theorem test_crc_append_full :
    refusalOf (exec (.crcAppend [0x01, 0x02, 0x00] 2 3) .reset) = some .crcAppendOverflow := by decide
theorem test_crc_check : lastResult (exec (.crcCheck [0x01, 0x02, 0x0E, 0x7C] 4) .reset) = some (.checked true) := by decide
theorem test_crc_check_flip :
    (List.range 80).all (fun i => !crcMatches (flipBit frameS i) 10) = true := by decide +kernel

/-! ### The synchronizer (V13 to V34) -/

theorem test_push : (nextOf (exec (.rxPush [0xAA, 0x02]) .reset)).map (fun s => (s.buf, s.syncBusy)) =
    some ([0xAA, 0x02], true) := by decide
theorem test_push_holds : (nextOf (exec (.rxPush [0x02]) (withBytes [0xAA]))).map (fun s => (s.buf, s.offered)) =
    some ([0xAA], [.rxPush [0x02]]) := by decide
theorem test_parse_drop : (nextOf (exec .parseStep (withBytes [0xAA, 0x02]))).map (fun s => (s.buf, s.syncBusy)) =
    some ([0x02], true) := by decide
theorem test_parse_hold : (nextOf (exec .parseStep (withBytes [0x02, 0x05, 0x03]))).map (fun s => (s.buf, s.syncBusy)) =
    some ([0x02, 0x05, 0x03], false) := by decide
theorem test_flush : (nextOf (exec .flush (withBytes [0x02, 0x05, 0x03]))).map (fun s => (s.buf, s.syncBusy, s.out)) =
    some ([], false, []) := by decide
theorem test_feed_bad_crc : (nextOf (rxFeed [0x10, 0x05, 0x4E, 0xD8] .reset)).map
    (fun s => (s.results, s.out)) =
    some ([.parsed .dropBadCrc, .parsed .dropUnrecognized, .parsed .dropUnrecognized, .parsed .dropUnrecognized,
      .parsed .haltEmpty], []) := by decide
theorem test_feed_two_frames : (nextOf (rxFeed (frameA05 ++ frameN0207) .reset)).map
    (fun s => (s.lastAckId, s.lastNackId, s.lastNackReason, s.out)) =
    some (0x05, 0x02, 0x07, [⟨.ack, frameA05⟩, ⟨.nack, frameN0207⟩]) := by decide
theorem test_feed_garbage : (nextOf (rxFeed (0xAA :: frameS) .reset)).map (fun s => (s.results, s.out)) =
    some ([.parsed .dropUnrecognized, .parsed (.accept .status), .parsed .haltEmpty], [⟨.status, frameS⟩]) := by decide
theorem test_feed_coincidence :
    (nextOf (rxFeed ([0xAA, 0x10, 0xAB, 0x1A, 0xFD, 0x32] ++ List.replicate 75 0x00 ++ [0x03, 0x77]) .reset)).map
      (fun s => (s.lastAckId, s.out, s.buf)) =
    some (0xAB, [⟨.ack, [0x10, 0xAB, 0x1A, 0xFD]⟩], []) := by decide +kernel

/-! ### Inbound kinds (V20 to V26) -/

theorem test_status : (nextOf (exec (.status 0x05 0x03 0x01 300 0x7551) (withBytes frameS))).map (fun s => (s.buf, s.out)) =
    some ([], [⟨.status, frameS⟩]) := by decide
theorem test_device_info :
    lastResult (exec (.deviceInfo 0x09 0x01 0x02 0x03 0x12345678 0xBD3D) (withBytes frameD)) =
      some (.parsed (.accept .deviceInfo)) := by decide
theorem test_coordinate :
    lastResult (exec (.coordinate pointsC 0xF99C) (withBytes frameC)) = some (.parsed (.accept .coordinate)) := by
  decide +kernel
theorem test_extended :
    lastResult (exec (.extendedCoordinates recordsE 0xD03F) (withBytes frameE)) =
      some (.parsed (.accept .extendedCoordinates)) := by decide +kernel
theorem test_ack : (nextOf (exec (.ack 0x05 0x4ED9) (withBytes frameA05))).map (fun s => (s.lastAckId, s.lastNackId)) =
    some (0x05, 0x00) := by decide
theorem test_ack_goes_down : (nextOf (exec (.ack 0x04 0x5EF8) ((withBytes [0x10, 0x04, 0x5E, 0xF8]).setAck 0x05))).map
    (fun s => s.lastAckId) = some 0x04 := by decide
theorem test_nack : (nextOf (exec (.nack 0x02 0x07 0xAE4A) (withBytes frameN0207))).map
    (fun s => (s.lastAckId, s.lastNackId, s.lastNackReason)) = some (0x00, 0x02, 0x07) := by decide
theorem test_frame_not_at_front : faultOf (exec (.ack 0x05 0x4ED9) (withBytes (0xAA :: frameA05))) = some .frameNotAtFront := by
  decide
theorem test_decode_status_fields : decodeStatus frameS = ⟨0x05, 0x03, 0x01, 300⟩ := by decide
theorem test_decode_device_info_fields : decodeDeviceInfo frameD = ⟨0x09, 0x01, 0x02, 0x03, 0x12345678⟩ := by decide
theorem test_decode_points : (decodeCoordinate frameC).map PointInfo.detected = true :: List.replicate 15 false := by
  decide +kernel
theorem test_decode_ext_point : decodeExtPoint frameE 0 =
    ⟨0x0102, 0x0123, 0x3FFF, 0x80, 0x90, 0xA, 0x5, [0x10, 0x20, 0x30, 0x40], 0x55, 0x66, 0x77⟩ := by decide

/-! ### Assembly (V40 to V50) -/

theorem test_set_register : lastResult (exec (.setRegister 0x01 0x20 0xFF 16) (withCtr 0x05)) =
    some (.assembled [0x23, 0x05, 0x01, 0x20, 0xFF, 0x64, 0x09] 7 (some 0x05)) := by decide
theorem test_get_status : lastResult (exec (.getStatus 4) (withCtr 0x00)) =
    some (.assembled [0x20, 0x00, 0x1B, 0xE9] 4 (some 0x00)) := by decide
theorem test_get_device_info : lastResult (exec (.getDeviceInfo 4) (withCtr 0x01)) =
    some (.assembled [0x21, 0x01, 0x38, 0xF9] 4 (some 0x01)) := by decide
theorem test_set_mode : lastResult (exec (.setMode [0x01, 0x00, 0x00] 7) (withCtr 0x03)) =
    some (.assembled [0x22, 0x03, 0x01, 0x00, 0x00, 0xF1, 0xD7] 7 (some 0x03)) := by decide
theorem test_reset_bootloader : lastResult (exec (.resetBootloader 0x01 5) (withCtr 0x04)) =
    some (.assembled [0x26, 0x04, 0x01, 0x24, 0x1F] 5 (some 0x04)) := by decide
theorem test_set_leds : lastResult (exec (.setLeds 0x01 0x02 0x00 7) (withCtr 0x02)) =
    some (.assembled [0x25, 0x02, 0x01, 0x02, 0x00, 0x86, 0xD5] 7 (some 0x02)) := by decide
theorem test_set_leds_small : refusalOf (exec (.setLeds 0x01 0x02 0x00 6) .reset) = some .txBufferTooSmall := by decide
theorem test_group_none : lastResult (exec (.setRegisterGroup [] 5) (withCtr 0x00)) =
    some (.assembled [0x24, 0x00, 0x00, 0x96, 0x9A] 5 (some 0x00)) := by decide
theorem test_group_zero_length : (nextOf (exec (.setRegisterGroup triples19 61) (withCtr 0x07))).map
    (fun s => (s.txnCtr, s.results)) = some (0x07, [.assembled [] 0 none]) := by decide
theorem test_assemble_group : (lastResult (exec (.txAssemble (.outbound .setRegisterGroup) (groupPayload triples19) 62) (withCtr 0x07)))
    = some (.assembled ([0x24, 0x07, 0x13] ++ (List.replicate 19 [0x01, 0x02, 0x03]).flatten ++ [0x30, 0xBD]) 62 (some 0x07)) := by
  decide +kernel
theorem test_assemble_inbound : refusalOf (exec (.txAssemble (.inbound .status) [] 16) .reset) = some .notOutbound := by decide
theorem test_alloc_run : allocRun 3 (withCtr 0xFE) = [0xFE, 0xFF, 0x00] := by decide
theorem test_alloc_wraps : (nextOf (exec .txnAlloc (withCtr 0xFF))).map (fun s => (s.txnCtr, s.results)) =
    some (0x00, [.txid 0xFF]) := by decide

/-! ### Waiting (V51 to V62) -/

theorem test_wait_starts : phases (exec (.txnWait 0x05) .reset) = some [.checkNack] := by decide
theorem test_wait_starts_ack_first : phases (exec (.txnWait 0x05) (ackFirst .reset)) = some [.checkAck] := by decide
theorem test_wait_ack_equal : lastResult (step (withWaiter 0x05 0x00 ⟨0x05, .checkAck⟩ false)) =
    some (.waited 0x05 .success) := by decide
theorem test_wait_nack : lastResult (step (withWaiter 0x00 0x02 ⟨0x02, .checkNack⟩ false)) =
    some (.waited 0x02 .rejected) := by decide
theorem test_wait_wrap : phases (step (withWaiter 0xFE 0x00 ⟨0xFF, .checkAck⟩ false)) = some [.decide] := by decide
theorem test_wait_ack_first :
    phases (step (ackFirst (withWaiter 0x04 0x00 ⟨0x05, .checkAck⟩ false))) = some [.checkNack] ∧
      phases (step (ackFirst (withWaiter 0x04 0x00 ⟨0x05, .checkNack⟩ false))) = some [.decide] ∧
      phases (step (ackFirst (withWaiter 0x04 0x00 ⟨0x05, .decide⟩ false))) = some [.checkAck] := by decide
theorem test_wait_timeout : lastResult (step (withWaiter 0x04 0x02 ⟨0x05, .decide⟩ true)) =
    some (.waited 0x05 .timeout) := by decide

/-! ### Registers and reset (V63 to V65) -/

theorem test_read_regs : lastResult (exec .readRegs ((State.reset.setAck 0x04).setNack 0x02 0x07)) =
    some (.regs 0x04 0x02 0x07 false) := by decide

/-- The start state of V63. -/
def dirty : State := (((State.reset.setBuf [0x02, 0x05, 0x03]).setTxnCtr 0x09).setAck 0x04).setNack 0x02 0x07

theorem test_reset : nextOf (exec .reset dirty) = some State.reset := by decide
theorem test_session_init : nextOf (exec .sessionInit dirty) = some (withCtr 0x09) := by decide
theorem test_reset_while_waiting :
    refusalOf (exec .reset (dirty.setWaiters [⟨0x01, .checkAck⟩])) = some .resetWhileActive := by decide
theorem test_session_init_while_waiting :
    refusalOf (exec .sessionInit (dirty.setWaiters [⟨0x01, .checkAck⟩])) = some .resetWhileActive := by decide

/-! ### The host's two questions, and the interleaving -/

theorem test_fetch_ack : (nextOf (step (State.reset.withFetchWord 32 0xD94E0510))).map (fun s => s.lastAckId) = some 0x05 := by
  decide +kernel
theorem test_fetch_outbound : lastResult (step (State.reset.withFetchWord 32 0xE91B0020)) =
    some (.assembled [0x20, 0x00, 0x1B, 0xE9] 4 (some 0x00)) := by decide +kernel
theorem test_turn_of_a_done_waiter_passes :
    phases (step (withWaiter 0x00 0x00 ⟨0x01, .done .success⟩ true)) = some [.done .success] := by decide

/-! ### Witnesses: for every statement with hypotheses, and every clause of it, values that meet them -/

/-- No inbound kind has the ID 0xAA. -/
theorem no_kind_AA : ∀ k, tc.inboundId k ≠ 0xAA := by intro k; cases k <;> decide

/-- A configuration with an ID shared by two inbound kinds. -/
def sharedCfg : Config := { tc with idAck := 0x02 }

/-- The largest fixpoint: an extended frame without its last byte. -/
def heldState : State := State.reset.setBuf (frameE.take 258)

/-- The state with an operation offered. -/
def offering (i : Instr) (s : State) : State := s.setOffered [i]

/-- The CRC unit: in range at n = len(B) and at 0, out of range one above. -/
theorem witness_crc_compute :
    (2 ≤ ([0x01, 0x02] : List Byte).length ∧ 0 ≤ ([] : List Byte).length) ∧ ([0x01, 0x02] : List Byte).length < 3 := by decide
theorem witness_crc_append :
    (2 + 2 ≤ 4 ∧ ([0x01, 0x02, 0x00, 0x00] : List Byte).length = 4) ∧ (0 + 2 ≤ 2 ∧ ([0x00, 0x00] : List Byte).length = 2) ∧
      3 < 2 + 2 ∧ (2 + 2 ≤ 4 ∧ ([0x01, 0x02, 0x00] : List Byte).length ≠ 4) := by decide
theorem witness_crc_check :
    (2 ≤ 2 ∧ 2 ≤ ([0xFF, 0xFF] : List Byte).length) ∧ 1 < 2 ∧ ([0xFF, 0xFF] : List Byte).length < 3 := by decide
theorem witness_crc_flip :
    0 + 2 ≤ ([0x00, 0x00] : List Byte).length ∧ 15 < 8 * (([] : List Byte).length + 2) := by decide

/-- A push: busy; length 0 and 260; one byte too many for the capacity; exactly the capacity; the largest chunk onto the largest
fixpoint under `BUF_CAP = 517`. -/
theorem witness_rx_push_busy : (withBytes [0xAA]).syncBusy = true := rfl
theorem witness_rx_push_length :
    State.reset.syncBusy = false ∧ (([] : List Byte) = [] ∨ 259 < ([] : List Byte).length) ∧
      (frameE ++ [0x00] = [] ∨ 259 < (frameE ++ [0x00]).length) := by decide
theorem witness_rx_push_overflow :
    heldState.syncBusy = false ∧ frameE ≠ [] ∧ frameE.length ≤ 259 ∧
      ({ heldState with cfg := { tc with bufCap := 516 } } : State).cfg.bufCap < heldState.buf.length + frameE.length := by decide
theorem witness_rx_push_fits :
    heldState.syncBusy = false ∧ frameE ≠ [] ∧ frameE.length ≤ 259 ∧
      heldState.buf.length + frameE.length ≤ heldState.cfg.bufCap ∧ 517 ≤ heldState.cfg.bufCap := by decide
theorem witness_held_state : heldState.SyncInv :=
  ⟨by decide, fun _ => .inr ⟨0x14, .extendedCoordinates, by decide, by decide, by decide⟩⟩

/-- The five outcomes: an empty buffer, an unrecognized byte, a frame one byte short, a valid frame, one with a wrong CRC. -/
theorem witness_parse_empty : (withBytes []).syncBusy = true ∧ (withBytes []).buf = [] := ⟨rfl, rfl⟩
theorem witness_parse_unrecognized :
    (withBytes [0xAA]).syncBusy = true ∧ (withBytes [0xAA]).buf = 0xAA :: [] ∧
      ∀ k, (withBytes [0xAA]).cfg.inboundId k ≠ 0xAA := ⟨rfl, rfl, no_kind_AA⟩
theorem witness_parse_incomplete :
    (withBytes (frameS.take 9)).syncBusy = true ∧ (withBytes (frameS.take 9)).buf = 0x02 :: (frameS.take 9).drop 1 ∧
      (withBytes (frameS.take 9)).cfg.kindOf 0x02 = some .status ∧
      (withBytes (frameS.take 9)).buf.length < inboundSize .status := by decide
theorem witness_parse_accept :
    (withBytes frameS).syncBusy = true ∧ (withBytes frameS).buf = frameS ++ [] ∧ frameS.length = inboundSize .status ∧
      (withBytes frameS).cfg.kindOf (byteAt frameS 0) = some .status ∧ crcMatches frameS frameS.length = true := by decide
theorem witness_parse_bad_crc :
    (withBytes [0x10, 0x05, 0x4E, 0xD8]).syncBusy = true ∧
      (withBytes [0x10, 0x05, 0x4E, 0xD8]).cfg.kindOf (byteAt [0x10, 0x05, 0x4E, 0xD8] 0) = some .ack ∧
      ([0x10, 0x05, 0x4E, 0xD8] : List Byte).length = inboundSize .ack ∧
      crcMatches [0x10, 0x05, 0x4E, 0xD8] 4 = false := by decide

/-- A state with one event, a frame in the buffer, and a step. -/
def eventState : State := (withBytes frameA05).emit .status frameS

theorem witness_sync_inv_step : (withBytes frameA05).SyncInv ∧ ∃ t, step (withBytes frameA05) = .next t :=
  ⟨⟨by decide, fun h => by cases h⟩, _, rfl⟩
theorem witness_sync_inv_held : heldState.SyncInv ∧ heldState.syncBusy = false := ⟨witness_held_state, rfl⟩
theorem witness_halts : (withBytes [0x02]).syncBusy = true ∧
    (∃ t, exec .parseStep (withBytes [0x02]) = .next t ∧ t.syncBusy = false) ∧
    ∃ t, exec .flush (withBytes [0x02]) = .next t ∧ t.syncBusy = false := ⟨rfl, ⟨_, rfl, rfl⟩, _, rfl, rfl⟩
theorem witness_out_inv_step : eventState.OutInv ∧ ∃ t, step eventState = .next t := by
  refine ⟨?_, _, rfl⟩
  intro e he
  have h : e = ⟨.status, frameS⟩ := List.mem_singleton.mp he
  subst h
  exact ⟨by decide, by decide, by decide⟩
theorem witness_progress : (withBytes [0xAA]).syncBusy = true ∧
    ∃ t, exec .parseStep (withBytes [0xAA]) = .next t ∧ t.syncBusy = true := ⟨rfl, _, rfl, rfl⟩
theorem witness_garbage :
    (withBytes ([0xAA, 0xAA] ++ frameS ++ [0x02])).syncBusy = true ∧
      (withBytes ([0xAA, 0xAA] ++ frameS ++ [0x02])).buf = [0xAA, 0xAA] ++ frameS ++ [0x02] ∧
      (∀ b ∈ ([0xAA, 0xAA] : List Byte), ∀ k, (withBytes ([0xAA, 0xAA] ++ frameS ++ [0x02])).cfg.inboundId k ≠ b) ∧
      frameS.length = inboundSize .status ∧ tc.kindOf (byteAt frameS 0) = some .status ∧ frameValid frameS = true := by
  refine ⟨rfl, rfl, ?_, by decide, by decide, by decide⟩
  intro b hb k
  have h : b = 0xAA := by simpa using hb
  subst h
  exact no_kind_AA k
theorem witness_split :
    State.reset.syncBusy = false ∧ State.reset.buf = [] ∧ 517 ≤ State.reset.cfg.bufCap ∧ frameS.take 9 ≠ [] ∧
      frameS.drop 9 ≠ [] ∧ (frameS.take 9 ++ frameS.drop 9).length = inboundSize .status ∧
      State.reset.cfg.kindOf (byteAt (frameS.take 9 ++ frameS.drop 9) 0) = some .status ∧
      frameValid (frameS.take 9 ++ frameS.drop 9) = true := by decide
theorem witness_front_accepted :
    (withBytes (frameS ++ [0xAA])).cfg.kindOf (byteAt frameS 0) = some .status ∧ frameS.length = inboundSize .status ∧
      frameValid frameS = true ∧ (withBytes (frameS ++ [0xAA])).buf = frameS ++ [0xAA] ∧
      ∃ t, exec .parseStep (withBytes (frameS ++ [0xAA])) = .next t := ⟨by decide, by decide, by decide, rfl, _, rfl⟩
theorem witness_front_held :
    (withBytes (frameS.take 9)).cfg.kindOf (byteAt frameS 0) = some .status ∧ frameS.length = inboundSize .status ∧
      frameValid frameS = true ∧ frameS = frameS.take 9 ++ [0x51] ∧ frameS.take 9 ≠ [] ∧ ([0x51] : List Byte) ≠ [] ∧
      (withBytes (frameS.take 9)).buf = frameS.take 9 ∧
      ∃ t, exec .parseStep (withBytes (frameS.take 9)) = .next t :=
  ⟨by decide, by decide, by decide, by decide, by decide, by decide, rfl, _, rfl⟩

/-- Runs of the block. A parse run under the SYNC agent's turns: an ACK is accepted, the empty buffer halts, and the run goes on at
rest. -/
def parseStates : Nat → State
  | 0 => withBytes frameA05
  | 1 => (accept .ack frameA05 (withBytes frameA05)).setSched []
  | _ => haltEmpty (accept .ack frameA05 (withBytes frameA05))

/-- One agent's turn at every point, nothing newly offered. -/
def always (t : Turn) : Nat → Choice := fun _ => ⟨t, []⟩

theorem parseStates_run : IsRun parseStates (always .sync) := by
  intro n
  match n with
  | 0 => rfl
  | 1 => rfl
  | n + 2 => rfl
theorem witness_parse_fair_run :
    IsRun parseStates (always .sync) ∧ ParseFair parseStates (always .sync) ∧ (parseStates 0).syncBusy = true :=
  ⟨parseStates_run, fun n => ⟨n, le_refl n, .inr rfl⟩, rfl⟩

/-- A wait for 0x01 that draws Timeout at its DECIDE; the run goes on at rest. -/
def timeoutStates : Nat → State
  | 0 => State.reset.setWaiters [⟨0x01, .decide⟩]
  | _ => (State.reset.setWaiters [⟨0x01, .done .timeout⟩]).ret (.waited 0x01 .timeout)

theorem timeoutStates_fair : FairRun timeoutStates (always (.waiter 0 true)) where
  run n := by
    match n with
    | 0 => rfl
    | n + 1 => rfl
  parse n := by
    refine ⟨n, le_refl n, .inl ?_⟩
    match n with
    | 0 => rfl
    | n + 1 => rfl
  waiters n i w h := by
    have key : ∀ v : Waiter, v.target = 0x01 → ([v] : List Waiter)[i]? = some w →
        i = 0 ∧ w.target = 0x01 := by
      intro v hv hw
      match i with
      | 0 => exact ⟨rfl, by cases hw; exact hv⟩
      | i + 1 => cases hw
    have hk : i = 0 ∧ w.target = 0x01 := by
      match n with
      | 0 => exact key _ rfl h
      | n + 1 => exact key _ rfl h
    refine ⟨n + 1, .timeout, Nat.le_succ n, ?_⟩
    rw [hk.1, hk.2]
    rfl
theorem witness_fair_wait :
    FairRun timeoutStates (always (.waiter 0 true)) ∧ (timeoutStates 0).waiters[0]? = some ⟨0x01, .decide⟩ ∧
      (Waiter.mk 0x01 .decide).inProgress = true := ⟨timeoutStates_fair, rfl, rfl⟩

/-- The run R161 excludes: a wait for 0x01 whose DECIDE goes on for ever. -/
def endlessStates (n : Nat) : State :=
  State.reset.setWaiters [⟨0x01, if n % 3 = 0 then .decide else if n % 3 = 1 then .checkNack else .checkAck⟩]

theorem witness_endless_wait :
    IsRun endlessStates (always (.waiter 0 false)) ∧
      ∀ n, ∃ (m : Nat) (T : Byte), n ≤ m ∧ (endlessStates m).waiters[0]? = some (Waiter.mk T .decide) := by
  constructor
  · intro n
    have h : n % 3 = 0 ∧ (n + 1) % 3 = 1 ∨ n % 3 = 1 ∧ (n + 1) % 3 = 2 ∨ n % 3 = 2 ∧ (n + 1) % 3 = 0 := by omega
    obtain ⟨h, h'⟩ | ⟨h, h'⟩ | ⟨h, h'⟩ := h <;> simp only [endlessStates, h, h'] <;> rfl
  · exact fun n => ⟨3 * n, 0x01, by omega, by simp [endlessStates, State.setWaiters]⟩
theorem witness_nothing_offered :
    (withBytes frameA05).cfg.valid = true ∧ (withBytes frameA05).offered = [] := by decide

/-- The six inbound kinds: each of the frames of section 0 in front of one more byte. -/
theorem witness_status :
    (withBytes (frameS ++ [0x10])).cfg.valid = true ∧ (withBytes (frameS ++ [0x10])).syncBusy = true ∧
      (withBytes (frameS ++ [0x10])).buf = statusBytes tc 0x05 0x03 0x01 300 0x7551 ++ [0x10] ∧
      frameValid (statusBytes tc 0x05 0x03 0x01 300 0x7551) = true := by decide
theorem witness_device_info :
    (withBytes frameD).cfg.valid = true ∧ (withBytes frameD).syncBusy = true ∧
      (withBytes frameD).buf = deviceInfoBytes tc 0x09 0x01 0x02 0x03 0x12345678 0xBD3D ++ [] ∧
      frameValid (deviceInfoBytes tc 0x09 0x01 0x02 0x03 0x12345678 0xBD3D) = true := by decide
theorem witness_coordinate :
    (withBytes frameC).cfg.valid = true ∧ (withBytes frameC).syncBusy = true ∧
      (withBytes frameC).buf = coordinateBytes tc pointsC 0xF99C ++ [] ∧
      frameValid (coordinateBytes tc pointsC 0xF99C) = true := by decide +kernel
theorem witness_extended_coordinates :
    (withBytes frameE).cfg.valid = true ∧ (withBytes frameE).syncBusy = true ∧
      (withBytes frameE).buf = extendedCoordinatesBytes tc recordsE 0xD03F ++ [] ∧
      frameValid (extendedCoordinatesBytes tc recordsE 0xD03F) = true := by decide +kernel
theorem witness_ack :
    (withBytes frameA05).cfg.valid = true ∧ (withBytes frameA05).syncBusy = true ∧
      (withBytes frameA05).buf = ackBytes tc 0x05 0x4ED9 ++ [] ∧ frameValid (ackBytes tc 0x05 0x4ED9) = true := by decide
theorem witness_nack :
    (withBytes frameN0207).cfg.valid = true ∧ (withBytes frameN0207).syncBusy = true ∧
      (withBytes frameN0207).buf = nackBytes tc 0x02 0x07 0xAE4A ++ [] ∧
      frameValid (nackBytes tc 0x02 0x07 0xAE4A) = true := by decide
theorem witness_ack_keeps_pair : ∃ t, exec (.ack 0x05 0x4ED9) ((withBytes frameA05).setNack 0x02 0x07) = .next t := ⟨_, rfl⟩
theorem witness_corrupted :
    (withBytes [0x10, 0x05, 0x4E, 0xD8]).cfg.valid = true ∧ (withBytes [0x10, 0x05, 0x4E, 0xD8]).syncBusy = true ∧
      (Instr.ack 0x05 0x4ED8).inFrame tc = some (.ack, [0x10, 0x05, 0x4E, 0xD8]) ∧
      (withBytes [0x10, 0x05, 0x4E, 0xD8]).buf = [0x10, 0x05, 0x4E, 0xD8] ++ [] ∧
      frameValid [0x10, 0x05, 0x4E, 0xD8] = false := by decide
theorem witness_not_enabled :
    State.reset.syncBusy = false ∧ (Instr.parseStep = .parseStep ∨ (Instr.parseStep.inFrame State.reset.cfg).isSome = true) ∧
      (Instr.ack 0 0 = .parseStep ∨ ((Instr.ack 0 0).inFrame State.reset.cfg).isSome = true) := by decide
theorem witness_not_at_front :
    (withBytes (0xAA :: frameA05)).syncBusy = true ∧ (Instr.ack 0x05 0x4ED9).inFrame tc = some (.ack, frameA05) ∧
      (withBytes (0xAA :: frameA05)).buf.take (inboundSize .ack) ≠ frameA05 := by decide

/-- A step at each agent's turn. -/
theorem witness_step_sync :
    tc.valid = true ∧ (State.reset.placeBytes frameA05).sched = .sync :: [] ∧ (State.reset.placeBytes frameA05).syncBusy = true ∧
      decodeInbound (State.reset.placeBytes frameA05).cfg (State.reset.placeBytes frameA05).buf =
        .ok ⟨.ack 0x05 0x4ED9, none, []⟩ := ⟨by decide, rfl, rfl, rfl⟩
theorem witness_step_default :
    (withBytes frameA05).sched = [] ∧ (withBytes frameA05).syncBusy = true ∧
      decodeInbound (withBytes frameA05).cfg (withBytes frameA05).buf = .ok ⟨.ack 0x05 0x4ED9, none, []⟩ := ⟨rfl, rfl, rfl⟩
theorem witness_step_host :
    (State.reset.placeOp .txnAlloc).sched = .host :: [] ∧ (State.reset.placeOp .txnAlloc).offered = .txnAlloc :: [] ∧
      (offering .txnAlloc .reset).sched = [] ∧ (offering .txnAlloc .reset).syncBusy = false ∧
      (offering .txnAlloc .reset).offered = .txnAlloc :: [] := by decide
theorem witness_step_waiter :
    (withWaiter 0x00 0x00 ⟨0x01, .checkAck⟩ true).cfg.valid = true ∧
      (withWaiter 0x00 0x00 ⟨0x01, .checkAck⟩ true).sched = .waiter 0 true :: [] := by decide
theorem witness_step_passes :
    ((State.reset.setSched [.sync]).sched = .sync :: [] ∧ (State.reset.setSched [.sync]).syncBusy = false) ∧
      ((State.reset.setSched [.host]).sched = .host :: [] ∧ (State.reset.setSched [.host]).offered = []) := by decide
theorem witness_step_parse :
    ((withBytes []).setSched [.sync]).sched = .sync :: [] ∧ ((withBytes []).setSched [.sync]).syncBusy = true ∧
      (withBytes [0xAA]).sched = [] ∧ (withBytes [0xAA]).syncBusy = true := by decide
theorem witness_step_default_waiter :
    (dirty.setWaiters [⟨0x05, .done .success⟩, ⟨0x01, .decide⟩]).sched = [] ∧
      (dirty.setWaiters [⟨0x05, .done .success⟩, ⟨0x01, .decide⟩]).syncBusy = false ∧
      (dirty.setWaiters [⟨0x05, .done .success⟩, ⟨0x01, .decide⟩]).offered = [] ∧
      (dirty.setWaiters [⟨0x05, .done .success⟩, ⟨0x01, .decide⟩]).waiters.findIdx? Waiter.inProgress = some 1 := by decide
theorem witness_shared_id : ({ State.reset with cfg := sharedCfg } : State).cfg.valid = false := by decide

/-- Encoding: the premises for every outbound kind, for the largest register group, and for a port operation. -/
theorem witness_encode_inbound : tc.valid = true ∧ (Instr.ack 0x05 0x4ED9).inFrame tc = some (.ack, frameA05) := by decide
theorem witness_decode_inbound : decodeInbound tc frameA05 = .ok ⟨.ack 0x05 0x4ED9, none, []⟩ := rfl
theorem witness_outbound_ids :
    ∀ k, tc.kindOf (tc.outboundId k) = none ∧ tc.outKindOf (tc.outboundId k) = some k := by intro k; cases k <;> decide
theorem witness_encode_group :
    (Instr.setRegisterGroup triples19 62).outPayload = some (.setRegisterGroup, groupPayload triples19) ∧
      (Instr.setRegisterGroup triples19 62).wellFormed tc = true ∧
      ∃ F, encode tc ⟨0x07, 0x30BD⟩ (.setRegisterGroup triples19 62) = some F := ⟨by decide, by decide, _, rfl⟩
theorem witness_encode_fixed :
    (Instr.getStatus 4).wellFormed tc = true ∧ (Instr.getDeviceInfo 4).wellFormed tc = true ∧
      (Instr.setMode [0x01, 0x00, 0x00] 7).wellFormed tc = true ∧ (Instr.setRegister 0x01 0x20 0xFF 7).wellFormed tc = true ∧
      (Instr.setLeds 0x01 0x02 0x00 7).wellFormed tc = true ∧ (Instr.resetBootloader 0x01 5).wellFormed tc = true := by decide
theorem witness_port_operation : Instr.flush.inFrame tc = none ∧ Instr.flush.outPayload = none := ⟨rfl, rfl⟩

/-- TX_ASSEMBLE: a payload of the wrong shape; a group in a buffer one byte short; another kind in one one byte short; exactly the
frame's size. -/
theorem witness_assemble_shape : payloadOk tc .setRegister [0x01, 0x20] = false ∧ payloadOk tc .setRegisterGroup [] = false := by
  decide
theorem witness_assemble_group :
    payloadOk tc .setRegisterGroup (groupPayload triples19) = true ∧ 61 < (groupPayload triples19).length + 4 ∧
      (groupPayload triples19).length + 4 ≤ 62 := by decide
theorem witness_assemble_small :
    payloadOk tc .setLeds [0x01, 0x02, 0x00] = true ∧ OutKind.setLeds ≠ .setRegisterGroup ∧
      6 < ([0x01, 0x02, 0x00] : List Byte).length + 4 ∧ ([0x01, 0x02, 0x00] : List Byte).length + 4 ≤ 7 := by decide
theorem witness_too_small : 3 < 4 ∧ 6 < 7 ∧ 4 < 5 ∧
    (payloadOk tc .setMode [0x01, 0x00, 0x00] = true ∧ 6 < ([0x01, 0x00, 0x00] : List Byte).length + 4) := by decide
theorem witness_set_mode :
    payloadOk tc .setMode [0x01, 0x00, 0x00] = true ∧ ([0x01, 0x00, 0x00] : List Byte).length + 4 ≤ 7 ∧
      payloadOk { tc with setModeLen := .six } .setMode [0x01, 0x00] = true ∧ ([0x01, 0x00] : List Byte).length + 4 ≤ 6 ∧
      payloadOk tc .setMode [0x01, 0x00] = false := by decide
theorem witness_group_lengths :
    19 < (List.replicate 20 (⟨0, 0, 0⟩ : RegTriple)).length ∧ (triples19.length ≤ 19 ∧ 61 < 3 + 3 * triples19.length + 2) ∧
      (triples19.length ≤ 19 ∧ 3 + 3 * triples19.length + 2 ≤ 62) ∧
      (([] : List RegTriple).length ≤ 19 ∧ 3 + 3 * ([] : List RegTriple).length + 2 ≤ 5) := by decide
theorem witness_assembled :
    ∃ t, exec (.txAssemble (.outbound .getStatus) [] 4) .reset = .next t ∧
      t.results = State.reset.results ++ [.assembled [0x20, 0x00, 0x1B, 0xE9] 4 (some 0x00)] := ⟨_, rfl, by decide⟩
theorem witness_wait_orders :
    State.reset.cfg.waitCheckOrder = .nackFirst ∧ (ackFirst State.reset).cfg.waitCheckOrder = .ackFirst := ⟨rfl, rfl⟩

/-- A waiter at each phase, for each of its two ways on; the ACK test at equality and one below it. -/
theorem witness_waiter_nack :
    ((withWaiter 0x00 0x02 ⟨0x02, .checkNack⟩ false).waiters[0]? = some ⟨0x02, .checkNack⟩ ∧
      (withWaiter 0x00 0x02 ⟨0x02, .checkNack⟩ false).lastNackId = 0x02) ∧
    ((withWaiter 0x00 0x01 ⟨0x02, .checkNack⟩ false).waiters[0]? = some ⟨0x02, .checkNack⟩ ∧
      (withWaiter 0x00 0x01 ⟨0x02, .checkNack⟩ false).lastNackId ≠ 0x02) := by decide
theorem witness_waiter_ack :
    ((withWaiter 0x05 0x00 ⟨0x05, .checkAck⟩ false).waiters[0]? = some ⟨0x05, .checkAck⟩ ∧
      (0x05 : Byte).toNat ≤ (withWaiter 0x05 0x00 ⟨0x05, .checkAck⟩ false).lastAckId.toNat) ∧
    ((withWaiter 0xFE 0x00 ⟨0xFF, .checkAck⟩ false).waiters[0]? = some ⟨0xFF, .checkAck⟩ ∧
      (withWaiter 0xFE 0x00 ⟨0xFF, .checkAck⟩ false).lastAckId.toNat < (0xFF : Byte).toNat) := by decide
theorem witness_waiter_decide :
    (withWaiter 0x00 0x00 ⟨0x01, .decide⟩ true).sched = .waiter 0 true :: [] ∧
      (withWaiter 0x00 0x00 ⟨0x01, .decide⟩ false).sched = .waiter 0 false :: [] ∧
      (withWaiter 0x00 0x00 ⟨0x01, .decide⟩ true).waiters[0]? = some ⟨0x01, .decide⟩ := by decide
theorem witness_waiter_done :
    (withWaiter 0x00 0x00 ⟨0x01, .done .timeout⟩ true).waiters[0]? = some ⟨0x01, .done .timeout⟩ := by decide
theorem witness_waiter_ack_first :
    (ackFirst (withWaiter 0x04 0x00 ⟨0x05, .checkAck⟩ false)).cfg.waitCheckOrder = .ackFirst ∧
      ((ackFirst (withWaiter 0x04 0x00 ⟨0x05, .checkAck⟩ false)).waiters[0]? = some ⟨0x05, .checkAck⟩ ∧
        (ackFirst (withWaiter 0x04 0x00 ⟨0x05, .checkAck⟩ false)).lastAckId.toNat < (0x05 : Byte).toNat) ∧
      ((ackFirst (withWaiter 0x04 0x02 ⟨0x05, .checkNack⟩ false)).waiters[0]? = some ⟨0x05, .checkNack⟩ ∧
        (ackFirst (withWaiter 0x04 0x02 ⟨0x05, .checkNack⟩ false)).lastNackId ≠ 0x05) ∧
      (ackFirst (withWaiter 0x04 0x02 ⟨0x05, .decide⟩ false)).sched = .waiter 0 false :: [] ∧
      (ackFirst (withWaiter 0x04 0x02 ⟨0x05, .decide⟩ false)).waiters[0]? = some ⟨0x05, .decide⟩ := by decide
theorem witness_wait_success :
    ∃ t, step (withWaiter 0x05 0x00 ⟨0x05, .checkAck⟩ false) = .next t ∧
      t.results = (withWaiter 0x05 0x00 ⟨0x05, .checkAck⟩ false).results ++ [.waited 0x05 .success] := ⟨_, rfl, rfl⟩
theorem witness_wait_rejected :
    ∃ t, step (withWaiter 0x00 0x02 ⟨0x02, .checkNack⟩ false) = .next t ∧
      t.results = (withWaiter 0x00 0x02 ⟨0x02, .checkNack⟩ false).results ++ [.waited 0x02 .rejected] := ⟨_, rfl, rfl⟩

/-- Steps with a next state, for the statements about every step: an accepted ACK and NACK, an allocation, a reset, a push. -/
theorem witness_steps :
    (∃ t, step (withBytes frameA05) = .next t ∧ t.lastAckId = 0x05) ∧
    (∃ t, step (withBytes frameN0207) = .next t ∧ t.lastNackId = 0x02 ∧ t.lastNackReason = 0x07) ∧
    (∃ t, step (offering .txnAlloc .reset) = .next t ∧ t.txnCtr = 0x01) ∧
    (∃ t, step (offering .reset dirty) = .next t ∧ t.buf = []) ∧
    (∃ t, step (offering (.rxPush [0xAA]) .reset) = .next t ∧ t.buf = [0xAA]) := by
  refine ⟨⟨_, rfl, ?_⟩, ⟨_, rfl, ?_⟩, ⟨_, rfl, ?_⟩, ⟨_, rfl, ?_⟩, ⟨_, rfl, ?_⟩⟩ <;> decide

/-- RESET and SESSION_INIT: only returned waiters, and one in progress. -/
theorem witness_reset_admitted :
    ∀ w ∈ (dirty.setWaiters [⟨0x01, .done .success⟩]).waiters, ∃ o, w.phase = .done o := by
  intro w hw
  have h : w = ⟨0x01, .done .success⟩ := by simpa [State.setWaiters] using hw
  subst h
  exact ⟨_, rfl⟩
theorem witness_reset_refused :
    ∃ w ∈ (dirty.setWaiters [⟨0x01, .checkAck⟩]).waiters, ∀ o, w.phase ≠ .done o :=
  ⟨⟨0x01, .checkAck⟩, by simp [State.setWaiters], fun o h => by cases h⟩
theorem witness_wait_zero :
    dirty.cfg.valid = true ∧ ∃ t u v, exec .reset dirty = .next t ∧ exec (.txnWait 0x00) t = .next u ∧
      step { u with sched := .waiter dirty.waiters.length false :: [] } = .next v := ⟨by decide, _, _, _, rfl, rfl, rfl⟩
theorem witness_wait_zero_ack_first :
    (ackFirst dirty).cfg.waitCheckOrder = .ackFirst ∧ ∃ t u v, exec .reset (ackFirst dirty) = .next t ∧
      exec (.txnWait 0x00) t = .next u ∧
      step { u with sched := .waiter (ackFirst dirty).waiters.length false :: [] } = .next v := ⟨rfl, _, _, _, rfl, rfl, rfl⟩
theorem witness_offered_parse : step (offering .parseStep .reset) = .fault .parseStepNotEnabled := rfl
theorem witness_at_rest : State.reset.cfg.valid = true ∧ State.reset.AtRest ∧ State.reset.sched = [] :=
  ⟨by decide, ⟨rfl, rfl, rfl⟩, rfl⟩

/-- Frames: each form of a port operation has a next state. -/
theorem witness_frame_port :
    (∃ t, exec (.crcCompute [0x01] 1) .reset = .next t) ∧ (∃ t, exec (.crcAppend [0x00, 0x00] 0 2) .reset = .next t) ∧
    (∃ t, exec (.crcCheck [0xFF, 0xFF] 2) .reset = .next t) ∧ (∃ t, exec .readRegs .reset = .next t) ∧
    (∃ t, exec .txnAlloc .reset = .next t) ∧ (∃ t, exec (.txAssemble (.outbound .setLeds) [0, 0, 0] 7) .reset = .next t) ∧
    (∃ t, exec (.getStatus 4) .reset = .next t ∧ (Instr.getStatus 4).outPayload.isSome = true) :=
  ⟨⟨_, rfl⟩, ⟨_, rfl⟩, ⟨_, rfl⟩, ⟨_, rfl⟩, ⟨_, rfl⟩, ⟨_, rfl⟩, ⟨_, rfl, rfl⟩⟩
theorem witness_frame_push :
    (∃ t, exec (.rxPush [0xAA]) .reset = .next t ∧ State.reset.syncBusy = false) ∧
    (∃ t, exec (.rxPush [0xAA]) (withBytes [0x02]) = .next t ∧ (withBytes [0x02]).syncBusy = true) :=
  ⟨⟨_, rfl, rfl⟩, ⟨_, rfl, rfl⟩⟩
theorem witness_frame_parsing :
    (∃ t, exec .parseStep (withBytes frameS) = .next t) ∧
    (((Instr.ack 0x05 0x4ED9).inFrame (withBytes frameA05).cfg).isSome = true ∧
      ∃ t, exec (.ack 0x05 0x4ED9) (withBytes frameA05) = .next t) :=
  ⟨⟨_, rfl⟩, rfl, _, rfl⟩

end Sys2Proof.Tests
end

section
/-! PROOFS of the scope family: multi-byte fields are big-endian (R11, R42). -/

namespace Sys2Proof

/-- Appending bit vectors is positional: the left part counts in units of the right part's size. -/
theorem toNat_append_eq_mul_add {w v : Nat} (a : BitVec w) (b : BitVec v) :
    (a ++ b).toNat = a.toNat * 2 ^ v + b.toNat := by
  rw [BitVec.toNat_append, ← Nat.shiftLeft_add_eq_or_of_lt b.isLt, Nat.shiftLeft_eq]

theorem be16_toNat (a b : Byte) : (be16 a b).toNat = a.toNat * 256 + b.toNat :=
  toNat_append_eq_mul_add a b

theorem be32_toNat (a b c d : Byte) :
    (be32 a b c d).toNat = a.toNat * 2 ^ 24 + b.toNat * 2 ^ 16 + c.toNat * 2 ^ 8 + d.toNat := by
  have halves : (be32 a b c d).toNat = (be16 a b).toNat * 2 ^ 16 + (be16 c d).toNat :=
    toNat_append_eq_mul_add _ _
  rw [halves, be16_toNat, be16_toNat]
  omega

/-- Settles O32: append is positional, and the decoder's byte-order laws give the bytes back. -/
theorem fieldsAreBigEndian : Obligations.FieldsAreBigEndian :=
  ⟨be16_toNat, be32_toNat, be16_bytes, bytes32_be32⟩

end Sys2Proof
end

section
/-! PROOFS of the state family: who writes the registers and the histories (spec/10_state.md R24 to R30, R34). -/

namespace Sys2Proof.Machine

/-! ### Every step, from any state of the same block -/

/-- To show of every step a relation that what choosing a turn changes does not enter (`same`), show it of staying, of one
instruction's effect and of a waiter's step, each from the state the turn is taken in. -/
theorem step_block_induction {Q : State → State → Prop} {s t : State} (h : step s = .next t)
    (same : ∀ {u t}, SameBlock s u → Q u t → Q s t) (stay : ∀ u, Q u u) (run : ∀ {u t}, Effect u t → Q u t)
    (wait : ∀ u n d, Q u (waiterStep n d u)) : Q s t :=
  step_induction h (fun u hu => same hu (stay u)) (fun _ hu _ he => same hu (run he))
    fun u hu n d => same hu (wait u n d)

/-! ### A waiter's step -/

/-- A waiter's step writes only the waiters and the results (R29, R156). -/
theorem waiterStep_frame (n : Nat) (d : Bool) (s : State) :
    waiterStep n d s = { s with waiters := (waiterStep n d s).waiters, results := (waiterStep n d s).results } := by
  obtain h | ⟨ws, h⟩ | ⟨ws, T, o, h⟩ := waiterStep_cases n d s <;> rw [h] <;> rfl

/-- A waiter's step returns at most one result. -/
theorem waiterStep_results (n : Nat) (d : Bool) (s : State) :
    ∃ rs, (waiterStep n d s).results = s.results ++ rs ∧ rs.length ≤ 1 := by
  obtain h | ⟨ws, h⟩ | ⟨ws, T, o, h⟩ := waiterStep_cases n d s
  · exact ⟨[], by simp [h]⟩
  · exact ⟨[], by simp [h]⟩
  · exact ⟨[.waited T o], by simp [h]⟩

theorem waiterStep_of_done {n : Nat} {s : State} {T : Byte} {o : WaitOutcome} (h : s.waiters[n]? = some ⟨T, .done o⟩)
    (d : Bool) : waiterStep n d s = s := by
  simp [waiterStep, h, Waiter.inProgress]

/-- A waiter's step leaves the waiters, or gives the n-th one another phase. -/
theorem waiterStep_waiters (n : Nat) (d : Bool) (s : State) :
    (waiterStep n d s).waiters = s.waiters ∨
      ∃ w p, s.waiters[n]? = some w ∧ (waiterStep n d s).waiters = s.waiters.set n ⟨w.target, p⟩ := by
  cases hw : s.waiters[n]? with
  | none => exact .inl (by simp [waiterStep, hw])
  | some w =>
    by_cases hp : w.inProgress = true
    · refine .inr ⟨w, nextPhase s d w, rfl, ?_⟩
      simp only [waiterStep, hw, if_pos hp]
      cases nextPhase s d w <;> rfl
    · exact .inl (by simp [waiterStep, hw, hp])

theorem waiterStep_targets (n : Nat) (d : Bool) (s : State) :
    (waiterStep n d s).waiters.map Waiter.target = s.waiters.map Waiter.target := by
  obtain h | ⟨w, p, hw, h⟩ := waiterStep_waiters n d s
  · rw [h]
  · obtain ⟨hn, rfl⟩ := List.getElem?_eq_some_iff.mp hw
    have same := List.set_getElem_self (as := s.waiters.map Waiter.target) (i := n) (by simpa using hn)
    rw [List.getElem_map] at same
    rw [h, List.map_set]
    exact same

theorem waiterStep_other_waiter {n m : Nat} (hm : m ≠ n) (d : Bool) (s : State) :
    (waiterStep n d s).waiters[m]? = s.waiters[m]? := by
  obtain h | ⟨w, p, -, h⟩ := waiterStep_waiters n d s
  · rw [h]
  · rw [h, List.getElem?_set_ne hm.symm]

/-- A scheduled waiter's turn runs its step (R185). -/
theorem step_of_waiter_turn {s : State} {l : List Turn} {n : Nat} {d : Bool} (hv : s.cfg.valid = true)
    (hs : s.sched = .waiter n d :: l) : step s = .next (waiterStep n d (s.setSched l)) := by
  simp only [step, runStep, if_pos hv, takeTurn, hs, runTurn]

/-- Settles O42: the turn runs the waiter's step, and that writes only the n-th waiter's phase and the results. -/
theorem waitersChangeNoRegister : Obligations.WaitersChangeNoRegister := by
  intro s l n d hv hs
  refine ⟨waiterStep n d (s.setSched l), step_of_waiter_turn hv hs, ?_⟩
  have targets := waiterStep_targets n d (s.setSched l)
  have others : ∀ m, m ≠ n → (waiterStep n d (s.setSched l)).waiters[m]? = s.waiters[m]? :=
    fun m hm => waiterStep_other_waiter hm d _
  have returned : ∀ T o, s.waiters[n]? = some ⟨T, .done o⟩ → waiterStep n d (s.setSched l) = { s with sched := l } :=
    fun T o h => waiterStep_of_done (s := s.setSched l) h d
  rw [waiterStep_frame] at targets others returned ⊢
  exact ⟨fun _ => rfl, rfl, rfl, rfl, rfl, rfl, rfl, rfl, targets, others, returned⟩

/-! ### A parse step -/

/-- A parse step leaves `TXN_CTR` and returns its outcome (R113). -/
theorem execParseStep_returns {s t : State} (h : execParseStep s = .next t) :
    t.txnCtr = s.txnCtr ∧ ∃ o, t.results = s.results ++ [.parsed o] := by
  obtain ⟨-, ⟨-, rfl⟩ | ⟨-, rfl⟩ | ⟨-, rfl⟩ | ⟨k, -, -, rfl⟩ | ⟨k, -, -, rfl⟩⟩ := execParseStep_cases h <;>
    simp [haltEmpty, dropUnrecognized, haltIncomplete, accept, dropBadCrc]

/-- A parse step leaves the last-seen registers and `OUT`, or emits one accepted frame and writes its kind's registers from that
frame's bytes (R117, R135, R136). -/
theorem execParseStep_lastSeen {s t : State} (h : execParseStep s = .next t) :
    (t.out = s.out ∧ t.lastAckId = s.lastAckId ∧ t.lastNackId = s.lastNackId ∧ t.lastNackReason = s.lastNackReason) ∨
      ∃ k F, t.out = s.out ++ [⟨k, F⟩] ∧
        t.lastAckId = (if k = .ack then byteAt F 1 else s.lastAckId) ∧
        t.lastNackId = (if k = .nack then byteAt F 1 else s.lastNackId) ∧
        t.lastNackReason = (if k = .nack then byteAt F 2 else s.lastNackReason) := by
  obtain ⟨-, ⟨-, rfl⟩ | ⟨-, rfl⟩ | ⟨-, rfl⟩ | ⟨k, -, -, rfl⟩ | ⟨k, -, -, rfl⟩⟩ := execParseStep_cases h
  · exact .inl ⟨rfl, rfl, rfl, rfl⟩
  · exact .inl ⟨rfl, rfl, rfl, rfl⟩
  · exact .inl ⟨rfl, rfl, rfl, rfl⟩
  · exact .inr ⟨k, s.buf.read 0 (inboundSize k), by simp [accept], by simp [accept, acceptRegs_lastAckId],
      by simp [accept, acceptRegs_lastNackId], by simp [accept, acceptRegs_lastNackReason]⟩
  · exact .inl ⟨rfl, rfl, rfl, rfl⟩

/-! ### The last-seen registers -/

/-- The last-seen registers, the buffer and `SYNC_BUSY` are clear (R200, R201). -/
def SessionCleared (t : State) : Prop :=
  t.lastAckId = 0x00 ∧ t.lastNackId = 0x00 ∧ t.lastNackReason = 0x00 ∧ t.buf = [] ∧ t.syncBusy = false

/-- `LAST_ACK_ID` stays, is byte 1 of an accepted ACK frame, or is cleared with the session (R25). -/
def AckWritten (s t : State) : Prop :=
  t.lastAckId = s.lastAckId ∨ (∃ F, t.out = s.out ++ [⟨.ack, F⟩] ∧ t.lastAckId = byteAt F 1) ∨ SessionCleared t

/-- The NACK pair stays, is bytes 1 and 2 of one accepted NACK frame, or is cleared with the session (R26, R27). -/
def NackWritten (s t : State) : Prop :=
  (t.lastNackId = s.lastNackId ∧ t.lastNackReason = s.lastNackReason) ∨
    (∃ F, t.out = s.out ++ [⟨.nack, F⟩] ∧ t.lastNackId = byteAt F 1 ∧ t.lastNackReason = byteAt F 2) ∨
    SessionCleared t

theorem sessionCleared_clearSession (s : State) : SessionCleared (clearSession s) := ⟨rfl, rfl, rfl, rfl, rfl⟩

theorem ackWritten_of_parseStep {s t : State} (h : execParseStep s = .next t) : AckWritten s t := by
  obtain ⟨-, ha, -, -⟩ | ⟨k, F, ho, ha, -, -⟩ := execParseStep_lastSeen h
  · exact .inl ha
  · by_cases hk : k = .ack
    · subst hk
      exact .inr (.inl ⟨F, ho, ha⟩)
    · exact .inl (ha.trans (if_neg hk))

theorem nackWritten_of_parseStep {s t : State} (h : execParseStep s = .next t) : NackWritten s t := by
  obtain ⟨-, -, hn, hr⟩ | ⟨k, F, ho, -, hn, hr⟩ := execParseStep_lastSeen h
  · exact .inl ⟨hn, hr⟩
  · by_cases hk : k = .nack
    · subst hk
      exact .inr (.inl ⟨F, ho, hn, hr⟩)
    · exact .inl ⟨hn.trans (if_neg hk), hr.trans (if_neg hk)⟩

theorem Effect.lastSeen {s t : State} (h : Effect s t) : AckWritten s t ∧ NackWritten s t := by
  cases h with
  | parses t h => exact ⟨ackWritten_of_parseStep h, nackWritten_of_parseStep h⟩
  | inits | resets => exact ⟨.inr (.inr (sessionCleared_clearSession s)), .inr (.inr (sessionCleared_clearSession s))⟩
  | returns | allocates | pushes | holds | flushes | waits => exact ⟨.inl rfl, .inl ⟨rfl, rfl⟩⟩

theorem step_lastSeen {s t : State} (h : step s = .next t) : AckWritten s t ∧ NackWritten s t := by
  refine step_block_induction h (fun hu => ?_) (fun u => ⟨.inl rfl, .inl ⟨rfl, rfl⟩⟩) Effect.lastSeen fun u n d => ?_
  · rw [hu]
    exact id
  · rw [waiterStep_frame]
    exact ⟨.inl rfl, .inl ⟨rfl, rfl⟩⟩

/-- Settles O46: only an accepted frame, SESSION_INIT and RESET are effects that write these registers. -/
theorem onlyAcceptedFramesWriteLastSeen : Obligations.OnlyAcceptedFramesWriteLastSeen := fun _ _ => step_lastSeen

/-- Settles O45: READ_REGS by its meaning, the pair by what any step does to it. -/
theorem readRegsReturnsOneInstant : Obligations.ReadRegsReturnsOneInstant := by
  refine ⟨fun s => rfl, fun s t h => ?_⟩
  obtain kept | accepted | ⟨-, hn, hr, -, -⟩ := (step_lastSeen h).2
  · exact .inl kept
  · exact .inr (.inl accepted)
  · exact .inr (.inr ⟨hn, hr⟩)

/-! ### The transaction counter -/

/-- `TXN_CTR` stays, advances with its old value returned, or is initialized with the session cleared (R24, R200). -/
def TxnCtrWritten (s t : State) : Prop :=
  t.txnCtr = s.txnCtr ∨
    (t.txnCtr = s.txnCtr + 1 ∧
      (t.results = s.results ++ [.txid s.txnCtr] ∨
        ∃ F len, t.results = s.results ++ [.assembled F len (some s.txnCtr)])) ∨
    (t.txnCtr = s.cfg.txnCtrInit ∧ t.buf = [] ∧ t.lastAckId = 0x00 ∧ t.lastNackId = 0x00 ∧ t.lastNackReason = 0x00)

theorem Effect.txnCtr {s t : State} (h : Effect s t) : TxnCtrWritten s t := by
  cases h with
  | parses t h => exact .inl (execParseStep_returns h).1
  | allocates r hr =>
    obtain rfl | ⟨F, len, rfl⟩ := hr
    · exact .inr (.inl ⟨rfl, .inl rfl⟩)
    · exact .inr (.inl ⟨rfl, .inr ⟨F, len, rfl⟩⟩)
  | resets => exact .inr (.inr ⟨rfl, rfl, rfl, rfl, rfl⟩)
  | returns | pushes | holds | flushes | waits | inits => exact .inl rfl

/-- Settles O47: of the effects only an allocation and RESET write the counter. -/
theorem onlyAllocationAdvancesTxnCtr : Obligations.OnlyAllocationAdvancesTxnCtr := by
  intro s t h
  refine step_block_induction (Q := TxnCtrWritten) h (fun hu => ?_) (fun u => .inl rfl) Effect.txnCtr fun u n d => ?_
  · rw [hu]
    exact id
  · rw [waiterStep_frame]
    exact .inl rfl

/-! ### The histories -/

/-- `OUT` and the results keep what they held and gain at most one entry each (R34, R192). -/
def HistoriesGrow (s t : State) : Prop :=
  (∃ es, t.out = s.out ++ es ∧ es.length ≤ 1) ∧ ∃ rs, t.results = s.results ++ rs ∧ rs.length ≤ 1

theorem historiesGrow_of_same {s t : State} (ho : t.out = s.out) (hr : t.results = s.results) : HistoriesGrow s t :=
  ⟨⟨[], by simp [ho]⟩, [], by simp [hr]⟩

theorem historiesGrow_of_return {s t : State} {r : Result} (ho : t.out = s.out) (hr : t.results = s.results ++ [r]) :
    HistoriesGrow s t :=
  ⟨⟨[], by simp [ho]⟩, [r], hr, Nat.le_refl 1⟩

theorem historiesGrow_of_parseStep {s t : State} (h : execParseStep s = .next t) : HistoriesGrow s t := by
  obtain ⟨-, o, hr⟩ := execParseStep_returns h
  obtain ⟨ho, -⟩ | ⟨k, F, ho, -⟩ := execParseStep_lastSeen h
  · exact historiesGrow_of_return ho hr
  · exact ⟨⟨[⟨k, F⟩], ho, Nat.le_refl 1⟩, [.parsed o], hr, Nat.le_refl 1⟩

theorem Effect.historiesGrow {s t : State} (h : Effect s t) : HistoriesGrow s t := by
  cases h with
  | parses t h => exact historiesGrow_of_parseStep h
  | returns | allocates => exact historiesGrow_of_return rfl rfl
  | pushes | holds | flushes | waits | inits | resets => exact historiesGrow_of_same rfl rfl

theorem waiterStep_historiesGrow (u : State) (n : Nat) (d : Bool) : HistoriesGrow u (waiterStep n d u) := by
  have results := waiterStep_results n d u
  rw [waiterStep_frame] at results ⊢
  exact ⟨⟨[], by simp⟩, results⟩

/-- Settles O49: a parse step emits at most its one frame, and each effect and each waiter's step returns at most one result. -/
theorem historiesOnlyGrow : Obligations.HistoriesOnlyGrow := by
  intro s t h
  refine step_block_induction (Q := HistoriesGrow) h (fun hu => ?_) (fun u => historiesGrow_of_same rfl rfl)
    Effect.historiesGrow waiterStep_historiesGrow
  rw [hu]
  exact id

/-! ### Starting a wait -/

/-- TXN_WAIT adds a waiter at the first phase of its loop (R157). -/
theorem exec_txnWait (T : Byte) (s : State) :
    exec (.txnWait T) s = .next { s with waiters := s.waiters ++ [⟨T, firstPhase s.cfg.waitCheckOrder⟩] } := rfl

/-- Settles O40: the first phase of the loop under each order of the two tests. -/
theorem txnWaitStartsAWaiter : Obligations.TxnWaitStartsAWaiter := by
  intro s T
  constructor <;> intro order <;> rw [exec_txnWait, order] <;> rfl

end Sys2Proof.Machine
end

section
/-! PROOFS of the memory family: the range of the transaction IDs (spec/20_memory.md R55), what is fixed for a run (R56), and who
writes the receive buffer (R40, R46, R48). -/

namespace Sys2Proof.Machine

/-! ### The configuration -/

theorem execParseStep_cfg {s t : State} (h : execParseStep s = .next t) : t.cfg = s.cfg := by
  obtain ⟨-, ⟨-, rfl⟩ | ⟨-, rfl⟩ | ⟨-, rfl⟩ | ⟨k, -, -, rfl⟩ | ⟨k, -, -, rfl⟩⟩ := execParseStep_cases h <;>
    simp [haltEmpty, dropUnrecognized, haltIncomplete, accept, dropBadCrc]

theorem Effect.cfg {s t : State} (h : Effect s t) : t.cfg = s.cfg := by
  cases h with
  | parses t h => exact execParseStep_cfg h
  | returns | allocates | pushes | holds | flushes | waits | inits | resets => rfl

/-- Settles O48: neither choosing a turn, nor an instruction's effect, nor a waiter's step writes the configuration. -/
theorem configurationIsFixed : Obligations.ConfigurationIsFixed := by
  intro s t h
  refine step_block_induction (Q := fun s t => t.cfg = s.cfg) h (fun hu => ?_) (fun u => rfl) Effect.cfg fun u n d => ?_
  · rw [hu]
    exact id
  · rw [waiterStep_frame]

/-! ### The receive buffer -/

/-- The ways `BUF` may change: not at all, a byte or the frame of the new event off the front, a chunk onto the back while
`SYNC_BUSY = 0`, or to the empty buffer (R46). -/
def BufChanged (s t : State) : Prop :=
  t.buf = s.buf ∨ t.buf = s.buf.drop 1 ∨
    (∃ k F, s.buf = F ++ t.buf ∧ F.length = inboundSize k ∧ t.out = s.out ++ [⟨k, F⟩]) ∨
    (∃ C, t.buf = s.buf ++ C ∧ 1 ≤ C.length ∧ C.length ≤ 259 ∧ s.syncBusy = false ∧ t.syncBusy = true) ∨
    t.buf = []

/-- An ACCEPT removes the frame it emits (R117). -/
theorem accept_removes_frame {k : InKind} {s : State} (h : front s.cfg s.buf = .complete k) :
    ∃ F, s.buf = F ++ (accept k (s.buf.read 0 (inboundSize k)) s).buf ∧ F.length = inboundSize k ∧
      (accept k (s.buf.read 0 (inboundSize k)) s).out = s.out ++ [⟨k, F⟩] :=
  ⟨s.buf.read 0 (inboundSize k), (List.take_append_drop (inboundSize k) s.buf).symm, read_front_length h, by simp [accept]⟩

theorem bufChanged_of_parseStep {s t : State} (h : execParseStep s = .next t) : BufChanged s t := by
  obtain ⟨-, ⟨-, rfl⟩ | ⟨-, rfl⟩ | ⟨-, rfl⟩ | ⟨k, hf, -, rfl⟩ | ⟨k, -, -, rfl⟩⟩ := execParseStep_cases h
  · exact .inl rfl
  · exact .inr (.inl rfl)
  · exact .inl rfl
  · exact .inr (.inr (.inl ⟨k, accept_removes_frame hf⟩))
  · exact .inr (.inl rfl)

theorem chunkOk_iff {C : List Byte} : chunkOk C = true ↔ 1 ≤ C.length ∧ C.length ≤ 259 := by
  simp only [chunkOk, Bool.and_eq_true, decide_eq_true_eq]
  rw [chunkMax]

theorem Effect.bufChanged {s t : State} (h : Effect s t) : BufChanged s t := by
  cases h with
  | parses t h => exact bufChanged_of_parseStep h
  | pushes C hb hc =>
    obtain ⟨nonempty, short⟩ := chunkOk_iff.mp hc
    exact .inr (.inr (.inr (.inl ⟨C, rfl, nonempty, short, hb, rfl⟩)))
  | flushes | inits | resets => exact .inr (.inr (.inr (.inr rfl)))
  | returns | allocates | holds | waits => exact .inl rfl

/-- Settles O50: a parse step works at the front, a push at the back, FLUSH, SESSION_INIT and RESET empty the buffer. -/
theorem bufferChangesOnlyAtItsEnds : Obligations.BufferChangesOnlyAtItsEnds := by
  intro s t h
  refine step_block_induction (Q := BufChanged) h (fun hu => ?_) (fun u => .inl rfl) Effect.bufChanged fun u n d => ?_
  · rw [hu]
    exact id
  · rw [waiterStep_frame]
    exact .inl rfl

/-! ### The port operations that only return -/

/-- At most `TXN_CTR` and the results differ: what building a frame or taking an ID writes (R48, R150, R152). -/
def SameButTxnCtr (s t : State) : Prop := t = { s with txnCtr := t.txnCtr, results := t.results }

theorem sameButTxnCtr_of_ret (s : State) (r : Result) : SameButTxnCtr s (s.ret r) := rfl

theorem sameButTxnCtr_of_assemble {k : OutKind} {P : List Byte} {cap : Nat} {s t : State} (h : assemble k P cap s = .next t) :
    SameButTxnCtr s t := by
  obtain ⟨-, ⟨-, -, rfl⟩ | ⟨-, rfl⟩⟩ := assemble_cases h <;> rfl

/-- An outbound kind that goes on to a next state is the assembly of its payload (R163 to R169). -/
theorem assemble_of_exec_outPayload {i : Instr} {k : OutKind} {P : List Byte} {s t : State}
    (hi : i.outPayload = some (k, P)) (h : exec i s = .next t) : ∃ cap, assemble k P cap s = .next t := by
  cases i <;> cases hi
  case setRegisterGroup ts cap =>
    simp only [exec, execSetRegisterGroup] at h
    split at h
    · cases h
    · exact ⟨cap, h⟩
  all_goals exact ⟨_, h⟩

/-- The operations that return a value and write nothing: the CRC unit's and READ_REGS (R100, R102, R103, R30). -/
def OnlyReturns (i : Instr) : Prop :=
  (∃ B n, i = .crcCompute B n) ∨ (∃ B n cap, i = .crcAppend B n cap) ∨ (∃ B n, i = .crcCheck B n) ∨ i = .readRegs

theorem exec_onlyReturns {i : Instr} (hi : OnlyReturns i) {s t : State} (h : exec i s = .next t) :
    ∃ r, t = s.ret r := by
  obtain ⟨B, n, rfl⟩ | ⟨B, n, cap, rfl⟩ | ⟨B, n, rfl⟩ | rfl := hi
  · simp only [exec, execCrcCompute] at h
    split at h <;> cases h
    exact ⟨_, rfl⟩
  · simp only [exec, execCrcAppend] at h
    split at h <;> cases h
    exact ⟨_, rfl⟩
  · simp only [exec, execCrcCheck] at h
    split at h <;> cases h
    exact ⟨_, rfl⟩
  · cases h
    exact ⟨_, rfl⟩

theorem exec_sameButTxnCtr {s t : State} {i : Instr} (h : exec i s = .next t)
    (hi : OnlyReturns i ∨ i = .txnAlloc ∨ (∃ k P cap, i = .txAssemble k P cap) ∨ i.outPayload.isSome = true) :
    SameButTxnCtr s t := by
  obtain returns | rfl | ⟨k, P, cap, rfl⟩ | outbound := hi
  · obtain ⟨r, rfl⟩ := exec_onlyReturns returns h
    exact sameButTxnCtr_of_ret s r
  · cases h
    rfl
  · cases k with
    | inbound k => cases h
    | outbound k => exact sameButTxnCtr_of_assemble h
  · obtain ⟨⟨k, P⟩, hp⟩ := Option.isSome_iff_exists.mp outbound
    obtain ⟨cap, ha⟩ := assemble_of_exec_outPayload hp h
    exact sameButTxnCtr_of_assemble ha

/-- Settles O58: these operations write at most the counter and the results, the CRC unit and READ_REGS only the results. -/
theorem frameOfPortOperations : Obligations.FrameOfPortOperations := by
  intro s t i h hi
  have kept : OnlyReturns i → t.txnCtr = s.txnCtr := by
    intro returns
    obtain ⟨r, rfl⟩ := exec_onlyReturns returns h
    rfl
  have same : SameButTxnCtr s t := exec_sameButTxnCtr h (by simpa only [OnlyReturns, or_assoc] using hi)
  rw [same] at kept ⊢
  exact ⟨fun _ => rfl, rfl, rfl, rfl, rfl, rfl, rfl, rfl, rfl, rfl, rfl, kept⟩

/-! ### Allocations in a row -/

/-- n allocations in a row return the counter's value and the n - 1 values after it, modulo 256 (R150). -/
theorem allocRun_eq (n : Nat) (s : State) :
    allocRun n s = (List.range n).map fun i => s.txnCtr + BitVec.ofNat 8 i := by
  induction n generalizing s with
  | zero => rfl
  | succ n ih =>
    have first : allocRun (n + 1) s = s.txnCtr :: allocRun n ((advanceTxn s).ret (.txid s.txnCtr)) := by
      simp [allocRun, exec, execTxnAlloc, Result.allocated, advanceTxn]
    have shift : ∀ i, (advanceTxn s).txnCtr + BitVec.ofNat 8 i = s.txnCtr + BitVec.ofNat 8 (i + 1) := by
      intro i
      simp only [advanceTxn, State.setTxnCtr_txnCtr]
      bv_omega
    rw [first, ih, List.range_succ_eq_map]
    simp [Function.comp_def, shift]

theorem allocRun_length (n : Nat) (s : State) : (allocRun n s).length = n := by simp [allocRun_eq]

/-- Up to 256 allocations in a row return distinct values. -/
theorem allocRun_nodup {n : Nat} (hn : n ≤ 256) (s : State) : (allocRun n s).Nodup := by
  rw [allocRun_eq]
  refine List.Nodup.map_on (fun i hi j hj same => ?_) List.nodup_range
  rw [List.mem_range] at hi hj
  bv_omega

/-- Settles O34: the i-th allocation returns the counter plus i modulo 256, so the values are distinct for 256 and then repeat. -/
theorem allocationsRepeatAfter256 : Obligations.AllocationsRepeatAfter256 := by
  intro s
  refine ⟨allocRun_length 256 s, allocRun_nodup (Nat.le_refl 256) s, allocRun_length 257 s, ?_⟩
  have wraps : BitVec.ofNat 8 256 = BitVec.ofNat 8 0 := by decide
  simp [allocRun_eq, wraps]

end Sys2Proof.Machine
end

section
/-! PROOFS of the encoding family: kind IDs (spec/30_encoding.md R61, R64), decoding and encoding inbound frames (R65 to R70) and
outbound frames (R71 to R78), and the operations with no encoding (R80). -/

namespace Sys2Proof

open Sys2Proof.Machine

/-! ### Bytes of a part of a list -/

theorem byteAt_zero_of_head? {B : List Byte} {b : Byte} (h : B.head? = some b) : byteAt B 0 = b := by
  simp [byteAt, ← List.head?_eq_getElem?, h]

theorem byteAt_take {n i : Nat} (h : i < n) (B : List Byte) : byteAt (B.take n) i = byteAt B i := by
  simp [byteAt, List.getElem?_take_of_lt h]

theorem byteAt_append_left {A : List Byte} {i : Nat} (h : i < A.length) (B : List Byte) : byteAt (A ++ B) i = byteAt A i := by
  simp [byteAt, List.getElem?_append_left h]

theorem byteAt_append_length_add (A B : List Byte) (i : Nat) : byteAt (A ++ B) (A.length + i) = byteAt B i := by
  simp [byteAt, List.getElem?_append_right (Nat.le_add_right _ _)]

/-- A 16-bit field written after n bytes is read back at index n (R42). -/
theorem be16_after {A : List Byte} {n : Nat} (h : A.length = n) (v : Half) :
    be16 (byteAt (A ++ bytes16 v) n) (byteAt (A ++ bytes16 v) (n + 1)) = v := by
  subst h
  have high := byteAt_append_length_add A (bytes16 v) 0
  have low := byteAt_append_length_add A (bytes16 v) 1
  exact (congrArg₂ be16 high low).trans (be16_bytes v)

/-! ### Kind IDs -/

/-- The configuration is well formed exactly if the inbound IDs are distinct (R61). -/
theorem Config.valid_iff {c : Config} : c.valid = true ↔ ∀ k k', c.inboundId k = c.inboundId k' → k = k' := by
  refine ⟨fun hc _ _ => Config.inboundId_injective hc, fun distinct => ?_⟩
  have kinds : InKind.all.Nodup := by decide
  simpa [Config.valid] using kinds.map (f := c.inboundId) distinct

/-- Settles O26: the search for a byte's kind finds an ID's own kind, and only that. -/
theorem recognizedBytesAreTheSixInboundIds : Obligations.RecognizedBytesAreTheSixInboundIds := by
  intro c b hc
  refine ⟨fun k => ⟨Config.kindOf_some, ?_⟩, Config.kindOf_none⟩
  rintro rfl
  exact Config.kindOf_inboundId hc k

/-! ### What the encoder answers -/

theorem encode_of_inFrame {c : Config} {i : Instr} {k : InKind} {F : List Byte} (h : i.inFrame c = some (k, F)) (st : Stamp) :
    encode c st i = some F := by
  simp [encode, h]

theorem inFrame_of_outPayload {i : Instr} {p : OutKind × List Byte} (h : i.outPayload = some p) (c : Config) :
    i.inFrame c = none := by
  cases i <;> cases h <;> rfl

theorem encode_of_outPayload {i : Instr} {k : OutKind} {P : List Byte} (h : i.outPayload = some (k, P)) (c : Config)
    (st : Stamp) : encode c st i = some (outboundBytes c k P st) := by
  simp [encode, inFrame_of_outPayload h, h]

/-- Settles O25: each layout begins with its kind's ID, and a step tests the configuration first. -/
theorem sharedKindIdsAreRefused : Obligations.SharedKindIdsAreRefused := by
  refine ⟨fun _ => rfl, fun c i k F h => ?_, fun c st i k P F h hF => ?_, fun _ => Config.valid_iff, fun s h => ?_⟩
  · obtain ⟨G, rfl⟩ := inFrame_head h
    rfl
  · rw [encode_of_outPayload h] at hF
    cases hF
    rfl
  · simp [step, runStep, h]

/-! ### Inbound frames -/

/-- As many records as a vector has, read from its bytes, are the vector, whatever follows. -/
theorem recordVec_recordBytes {α : Type} {wr : α → List Byte} {rd : List Byte → α} {w n : Nat}
    (hw : ∀ a, (wr a).length = w) (hr : ∀ a, rd (wr a) = a) (v : Vector α n) (B : List Byte) :
    recordVec rd w n (recordBytes wr v.toList ++ B) = v := by
  have records := recordsOf_recordBytes hw hr v.toList B
  rw [Vector.length_toList] at records
  exact Vector.toList_inj.mp records

/-- Reading the fields of an encoded inbound frame gives the instruction back (R65 to R70). -/
theorem inboundFields_of_inFrame {c : Config} {i : Instr} {k : InKind} {F : List Byte} (h : i.inFrame c = some (k, F)) :
    inboundFields k F = i := by
  cases i <;> cases h
  case status t st mo up crc =>
    exact congrArg₂ (Instr.status t st mo) (be32_bytes up) (be16_bytes crc)
  case deviceInfo t hw ma mi sn crc =>
    exact congrArg₂ (Instr.deviceInfo t hw ma mi) (be32_bytes sn) (be16_bytes crc)
  case coordinate ps crc =>
    refine congrArg₂ Instr.coordinate (recordVec_recordBytes Point.bytes_length pointOf_bytes ps _) (be16_after ?_ crc)
    simp [recordBytes_length Point.bytes_length]
  case extendedCoordinates rs crc =>
    refine congrArg₂ Instr.extendedCoordinates (recordVec_recordBytes ExtRecord.bytes_length extRecordOf_bytes rs _)
      (be16_after ?_ crc)
    simp [recordBytes_length ExtRecord.bytes_length]
  case ack t crc => exact congrArg (Instr.ack t) (be16_bytes crc)
  case nack t r crc => exact congrArg (Instr.nack t r) (be16_bytes crc)

/-- A complete window is read as its fields, and the bytes after it are left (R81). -/
theorem decodeInbound_of_complete {c : Config} {B : List Byte} {k : InKind} (h : front c B = .complete k) :
    decodeInbound c B = .ok ⟨inboundFields k (B.take (inboundSize k)), none, B.drop (inboundSize k)⟩ := by
  simp [decodeInbound, h]

/-- Whatever is read as an inbound frame is a complete window. -/
theorem decodeInbound_ok {c : Config} {B : List Byte} {d : Decoded} (h : decodeInbound c B = .ok d) :
    ∃ k, front c B = .complete k ∧ d = ⟨inboundFields k (B.take (inboundSize k)), none, B.drop (inboundSize k)⟩ := by
  unfold decodeInbound at h
  split at h <;> cases h
  exact ⟨_, ‹_›, rfl⟩

theorem decode_of_complete {c : Config} {B : List Byte} {k : InKind} (h : front c B = .complete k) :
    decode c B = decodeInbound c B := by
  simp [decode, h]

/-- Settles O27: the encoded frame is a complete window of its kind, and reading the window's fields inverts the layout. -/
theorem decodeOfEncodeInbound : Obligations.DecodeOfEncodeInbound := by
  intro c st i k F rest hc h
  have size : F.length = inboundSize k := inFrame_length h
  have window : front c (F ++ rest) = .complete k := front_inFrame hc h rest
  refine ⟨encode_of_inFrame h st, size, ?_⟩
  rw [decode_of_complete window, decodeInbound_of_complete window, ← size, List.take_left, List.drop_left,
    inboundFields_of_inFrame h]

/-- A byte, then the records read after it written out, then the two bytes after those as a 16-bit field, are the bytes read
(the frame shape of R67 and R68). -/
theorem write_readRecords {α : Type} {wr : α → List Byte} {rd : List Byte → α} {w n : Nat}
    (hr : ∀ B : List Byte, B.length = w → wr (rd B) = B) {b : Byte} {G : List Byte} (hG : G.length = w * n + 2) :
    [b] ++ recordBytes wr (recordVec rd w n G).toList ++
      bytes16 (be16 (byteAt (b :: G) (w * n + 1)) (byteAt (b :: G) (w * n + 2))) = b :: G := by
  have records : recordBytes wr (recordVec rd w n G).toList = G.take (w * n) :=
    recordBytes_recordsOf hr n G (by omega)
  have tail : G.drop (w * n) = [byteAt (b :: G) (w * n + 1), byteAt (b :: G) (w * n + 2)] := by
    rw [List.drop_eq_getElem_cons (by omega), List.drop_eq_getElem_cons (by omega), List.drop_eq_nil_of_le (by omega)]
    simp [byteAt, hG]
  rw [records, bytes16_be16, ← tail]
  simp

/-- Writing out the fields read from a window gives the window back (R65 to R70). -/
theorem inFrame_inboundFields {c : Config} {k : InKind} {F : List Byte} (hl : F.length = inboundSize k)
    (hb : byteAt F 0 = c.inboundId k) : (inboundFields k F).inFrame c = some (k, F) := by
  obtain ⟨b, G, rfl⟩ : ∃ b G, F = b :: G := List.exists_cons_of_length_pos (by have := inboundSize_pos k; omega)
  obtain rfl : b = c.inboundId k := hb
  have hG : G.length = inboundSize k - 1 := Nat.eq_sub_of_add_eq hl
  cases k with
  | status =>
    match G, hG with
    | [_, _, _, _, _, _, _, _, _], _ => simp [inboundFields, Instr.inFrame, statusBytes, byteAt, bytes32_be32, bytes16_be16]
  | deviceInfo =>
    match G, hG with
    | [_, _, _, _, _, _, _, _, _, _], _ =>
      simp [inboundFields, Instr.inFrame, deviceInfoBytes, byteAt, bytes32_be32, bytes16_be16]
  | coordinate => exact congrArg (fun F => some (InKind.coordinate, F)) (write_readRecords bytes_pointOf hG)
  | extendedCoordinates =>
    exact congrArg (fun F => some (InKind.extendedCoordinates, F)) (write_readRecords bytes_extRecordOf hG)
  | ack =>
    match G, hG with
    | [_, _, _], _ => simp [inboundFields, Instr.inFrame, ackBytes, byteAt, bytes16_be16]
  | nack =>
    match G, hG with
    | [_, _, _, _], _ => simp [inboundFields, Instr.inFrame, nackBytes, byteAt, bytes16_be16]

/-- Settles O28: what was decoded is the fields of a complete window, and writing those out gives the window back. -/
theorem encodeOfDecodeInbound : Obligations.EncodeOfDecodeInbound := by
  intro c st B d h
  obtain ⟨k, window, rfl⟩ := decodeInbound_ok h
  obtain ⟨⟨b, head, kind⟩, size⟩ := front_complete_iff.mp window
  have hl : (B.take (inboundSize k)).length = inboundSize k := List.length_take_of_le size
  have hb : byteAt (B.take (inboundSize k)) 0 = c.inboundId k := by
    rw [byteAt_take (by have := inboundSize_pos k; omega), byteAt_zero_of_head? head, Config.kindOf_some kind]
  exact ⟨_, encode_of_inFrame (inFrame_inboundFields hl hb) st, List.take_append_drop _ _⟩

/-! ### Payloads and sizes of outbound frames -/

/-- A register group's payload is its count, at most 19, and three bytes for each of as many triples (R167). -/
theorem payloadOk_setRegisterGroup {c : Config} {P : List Byte} (h : payloadOk c .setRegisterGroup P = true) :
    ∃ N ts, P = N :: ts ∧ N.toNat ≤ groupMax ∧ ts.length = 3 * N.toNat := by
  cases P with
  | nil => cases h
  | cons N ts => exact ⟨N, ts, rfl, by simpa [payloadOk] using h⟩

/-- FRAME_SIZE of an admitted payload's kind is the payload with four bytes more; a count is read from the payload's first byte,
whatever follows the payload (R62, R152). -/
theorem outboundSize_of_payloadOk {c : Config} {k : OutKind} {P : List Byte} (h : payloadOk c k P = true) (T : List Byte) :
    c.outboundSize (byteAt (P ++ T) 0).toNat k = outLength P := by
  cases k with
  | setRegisterGroup =>
    obtain ⟨N, ts, rfl, -, len⟩ := payloadOk_setRegisterGroup h
    change 3 + 3 * N.toNat + 2 = 2 + (ts.length + 1) + 2
    omega
  | setMode =>
    rw [Config.outboundSize, outLength, eq_of_beq h]
    cases c.setModeLen <;> rfl
  | getStatus | getDeviceInfo | setRegister | setLeds | resetBootloader =>
    rw [outLength, eq_of_beq h]
    rfl

/-- A well-formed outbound instruction's payload is one its kind admits. -/
theorem payloadOk_of_wellFormed {c : Config} {i : Instr} {k : OutKind} {P : List Byte} (hi : i.outPayload = some (k, P))
    (hw : i.wellFormed c = true) : payloadOk c k P = true := by
  cases i <;> cases hi <;> simp only [Instr.wellFormed, assembleOk, Bool.and_eq_true] at hw
  case setRegisterGroup => exact hw.2.1
  all_goals exact hw.1

/-! ### Outbound frames -/

theorem outboundBytes_length (c : Config) (k : OutKind) (P : List Byte) (st : Stamp) :
    (outboundBytes c k P st).length = outLength P := by
  simp only [outboundBytes, outLength, List.length_append, List.length_cons, List.length_nil, bytes16_length]

/-- The txid and the CRC are read back from where they were written (R152). -/
theorem stampOf_outboundBytes (c : Config) (k : OutKind) (P : List Byte) (st : Stamp) :
    stampOf (outboundBytes c k P st) (outLength P) = st := by
  have body : ([c.outboundId k, st.txid] ++ P).length = outLength P - 2 := Nat.add_comm P.length 2
  have last : outLength P - 1 = outLength P - 2 + 1 := by simp [outLength]
  rw [stampOf, last]
  exact congrArg (Stamp.mk st.txid) (be16_after body st.crc)

/-- The payload is read back from an encoded frame (R71 to R76). -/
theorem outPayload_outboundFields {c : Config} {k : OutKind} {P : List Byte} (h : payloadOk c k P = true) (st : Stamp) :
    (outboundFields k (outboundBytes c k P st) (outLength P)).outPayload = some (k, P) := by
  cases k with
  | getStatus | getDeviceInfo =>
    obtain rfl : P = [] := by simpa [payloadOk] using h
    rfl
  | setMode => simp [outboundFields, outboundBytes, Instr.outPayload, outLength]
  | setRegister | setLeds =>
    obtain ⟨b, a, v, rfl⟩ := List.length_eq_three.mp (by simpa [payloadOk] using h : P.length = 3)
    rfl
  | setRegisterGroup =>
    obtain ⟨N, ts, rfl, -, len⟩ := payloadOk_setRegisterGroup h
    have triples : recordBytes RegTriple.bytes (recordsOf tripleOf 3 N.toNat (ts ++ bytes16 st.crc)) = ts := by
      rw [recordBytes_recordsOf bytes_tripleOf _ _ (by simp [len]), ← len, List.take_left]
    simp [outboundFields, outboundBytes, Instr.outPayload, groupPayload, byteAt, recordsOf_length, triples]
  | resetBootloader =>
    obtain ⟨m, rfl⟩ := List.length_eq_one_iff.mp (by simpa [payloadOk] using h : P.length = 1)
    rfl

/-- FRAME_SIZE(k) bytes that begin with an outbound kind k's ID are read as its fields and stamp, whatever follows (R81). -/
theorem decodeOutbound_append {c : Config} {F : List Byte} {k : OutKind} (hk : c.outKindOf (byteAt F 0) = some k)
    (count : k = .setRegisterGroup → (byteAt F 2).toNat ≤ groupMax) (size : c.outboundSize (byteAt F 2).toNat k = F.length)
    (three : 3 ≤ F.length) (rest : List Byte) :
    decodeOutbound c (F ++ rest) = .ok ⟨outboundFields k F F.length, some (stampOf F F.length), rest⟩ := by
  obtain ⟨b, G, rfl⟩ := List.exists_cons_of_length_pos (Nat.lt_of_lt_of_le (by decide) three)
  replace hk : c.outKindOf b = some k := hk
  have third : byteAt (b :: (G ++ rest)) 2 = byteAt (b :: G) 2 := byteAt_append_left (A := b :: G) three rest
  have enough : (b :: G).length ≤ (b :: (G ++ rest)).length := by simp
  have long : ¬ (k = .setRegisterGroup ∧ (b :: (G ++ rest)).length < 3) := by omega
  have few : ¬ (k = .setRegisterGroup ∧ groupMax < (byteAt (b :: G) 2).toNat) := fun h => Nat.not_le.mpr h.2 (count h.1)
  simp only [List.cons_append, decodeOutbound, hk, third, size, if_neg long, if_neg few, if_neg (Nat.not_lt.mpr enough)]
  simp

/-- Whatever is read as an outbound frame has the fields of some bytes. -/
theorem decodeOutbound_ok {c : Config} {B : List Byte} {d : Decoded} (h : decodeOutbound c B = .ok d) :
    ∃ k F n, d.instr = outboundFields k F n := by
  unfold decodeOutbound at h
  split at h
  · cases h
  · split at h
    · cases h
    · dsimp only at h
      split_ifs at h
      cases h
      exact ⟨_, _, _, rfl⟩

/-- An encoded outbound frame is read as its fields and its stamp, and the bytes after it are left. -/
theorem decode_outboundBytes {c : Config} {k : OutKind} {P : List Byte} (unrecognized : c.kindOf (c.outboundId k) = none)
    (hk : c.outKindOf (c.outboundId k) = some k) (h : payloadOk c k P = true) (st : Stamp) (rest : List Byte) :
    decode c (outboundBytes c k P st ++ rest) =
      .ok ⟨outboundFields k (outboundBytes c k P st) (outLength P), some st, rest⟩ := by
  have outside : front c (outboundBytes c k P st ++ rest) = .unrecognized :=
    front_unrecognized_iff.mpr ⟨c.outboundId k, rfl, unrecognized⟩
  have first : byteAt (outboundBytes c k P st) 2 = byteAt (P ++ bytes16 st.crc) 0 := rfl
  have count : k = .setRegisterGroup → (byteAt (outboundBytes c k P st) 2).toNat ≤ groupMax := by
    rintro rfl
    obtain ⟨N, ts, rfl, few, -⟩ := payloadOk_setRegisterGroup h
    exact few
  have len := outboundBytes_length c k P st
  have size : c.outboundSize (byteAt (outboundBytes c k P st) 2).toNat k = (outboundBytes c k P st).length := by
    rw [first, outboundSize_of_payloadOk h, len]
  have three : 3 ≤ (outboundBytes c k P st).length := by simp [outboundBytes]
  simp only [decode, outside]
  rw [decodeOutbound_append hk count size three, len, stampOf_outboundBytes]

/-- Settles O29: an admitted payload's frame is read back as a builder of the same payload, which has the same encoding. -/
theorem decodeOfEncodeOutbound : Obligations.DecodeOfEncodeOutbound := by
  intro c st i k P F rest hi hw hF unrecognized hk
  have admitted : payloadOk c k P = true := payloadOk_of_wellFormed hi hw
  have payload := outPayload_outboundFields admitted st
  obtain rfl : outboundBytes c k P st = F := Option.some.inj ((encode_of_outPayload hi c st).symm.trans hF)
  refine ⟨?_, _, decode_outboundBytes unrecognized hk admitted st rest, payload, encode_of_outPayload payload c st⟩
  rw [outboundBytes_length, ← outboundSize_of_payloadOk admitted [], List.append_nil]

/-! ### Assembled frames -/

theorem sealed_length (B : List Byte) : (sealed B).length = B.length + 2 := by simp [sealed]

/-- Bytes with their CRC after them pass the CRC test over their whole length (R78, R103). -/
theorem frameValid_sealed (B : List Byte) : frameValid (sealed B) = true := by
  have body : (sealed B).take B.length = B := List.take_left
  have field : be16 (byteAt (sealed B) B.length) (byteAt (sealed B) (B.length + 1)) = crc16 B := be16_after rfl _
  rw [frameValid, sealed_length, crcMatches, Nat.add_sub_cancel, body]
  exact beq_iff_eq.mpr field.symm

/-- Settles O39: the frame returned is the sealed body of an admitted payload. -/
theorem assembledFramesPassTheCheck : Obligations.AssembledFramesPassTheCheck := by
  intro s t k P F cap len id h hr
  obtain ⟨admitted, ⟨-, -, rfl⟩ | ⟨-, rfl⟩⟩ := assemble_cases (k := k) h
  · simp at hr
  · simp only [State.ret_results, advanceTxn, State.setTxnCtr_results, List.append_cancel_left_eq, txFrame_eq] at hr
    cases hr
    have length : (sealed ([s.cfg.outboundId k, s.txnCtr] ++ P)).length = outLength P := by
      simp only [sealed_length, outLength, List.length_append, List.length_cons, List.length_nil]
    have size := outboundSize_of_payloadOk admitted []
    rw [List.append_nil] at size
    exact ⟨length.symm, length.trans size.symm, rfl, rfl, frameValid_sealed _⟩

/-! ### Operations with no encoding -/

theorem inFrame_inboundFields_ne_none (c : Config) (k : InKind) (F : List Byte) : (inboundFields k F).inFrame c ≠ none := by
  cases k <;> exact Option.some_ne_none _

theorem outPayload_outboundFields_ne_none (k : OutKind) (F : List Byte) (n : Nat) :
    (outboundFields k F n).outPayload ≠ none := by
  cases k <;> exact Option.some_ne_none _

/-- Whatever the decoder reads is a frame instruction, inbound or outbound (R77, R80). -/
theorem decode_ok_is_frame {c : Config} {B : List Byte} {d : Decoded} (h : decode c B = .ok d) :
    d.instr.inFrame c ≠ none ∨ d.instr.outPayload ≠ none := by
  unfold decode at h
  split at h
  · obtain ⟨k, F, n, hd⟩ := decodeOutbound_ok h
    exact .inr (hd ▸ outPayload_outboundFields_ne_none k F n)
  · obtain ⟨k, -, rfl⟩ := decodeInbound_ok h
    exact .inl (inFrame_inboundFields_ne_none c k _)

/-- Settles O30: the encoder answers frame instructions only, and so does the decoder. -/
theorem portOperationsHaveNoEncoding : Obligations.PortOperationsHaveNoEncoding := by
  intro c st i hin hout
  refine ⟨by simp [encode, hin, hout], ?_⟩
  rintro B d hd rfl
  exact (decode_ok_is_frame hd).elim (· hin) (· hout)

/-- Settles O31: the decoder evaluated on each word. -/
theorem wordsOfTheSpecDecode : Obligations.WordsOfTheSpecDecode := ⟨rfl, rfl, rfl, rfl, rfl⟩

end Sys2Proof
end

section
/-! PROOFS of the CRC family: what the three operations answer (spec/40_crc.md R100, R102, R103), the residue test (R104) and
the detection of a flipped bit (R105). Both rest on one shift of the register being linear and injective. -/

namespace Sys2Proof.Machine

/-! ### What the three operations answer -/

theorem exec_crcCompute (B : List Byte) (n : Nat) (s : State) :
    exec (.crcCompute B n) s =
      if n ≤ B.length then .next (s.ret (.crc (crc16 (B.take n)))) else .refused .crcRangeOutsideOperand := by
  simp [exec, execCrcCompute, computeOk]

theorem exec_crcAppend (B : List Byte) (n cap : Nat) (s : State) :
    exec (.crcAppend B n cap) s =
      if n + 2 ≤ cap ∧ B.length = cap then .next (s.ret (.appended (appended B n) (n + 2)))
      else .refused .crcAppendOverflow := by
  simp [exec, execCrcAppend, appendOk]

theorem exec_crcCheck (B : List Byte) (n : Nat) (s : State) :
    exec (.crcCheck B n) s =
      if 2 ≤ n ∧ n ≤ B.length then .next (s.ret (.checked (crcMatches B n))) else .refused .crcCheckLength := by
  simp [exec, execCrcCheck, checkOk]

/-- Two returns from one state are the same if and only if the values are. -/
theorem next_ret_inj {s : State} {r r' : Result} : (.next (s.ret r) : Outcome) = .next (s.ret r') ↔ r = r' := by
  simp [State.ret]

/-! ### One shift of the register is linear and injective -/

theorem crcShift_xor (a b : Half) : crcShift (a ^^^ b) = crcShift a ^^^ crcShift b := by
  have cancel (x y p : Half) : x ^^^ y = x ^^^ p ^^^ (y ^^^ p) := by
    rw [BitVec.xor_assoc, BitVec.xor_comm y, ← BitVec.xor_assoc p, BitVec.xor_self, BitVec.zero_xor]
  unfold crcShift
  rw [BitVec.getLsbD_xor, BitVec.shiftLeft_xor_distrib]
  cases a.getLsbD 15 <;> cases b.getLsbD 15
  · rfl
  · exact BitVec.xor_assoc ..
  · simp only [Bool.xor_false, if_true, Bool.false_eq_true, if_false]
    ac_rfl
  · exact cancel ..

/-- Where the polynomial was added, bit 0 is 1, and where it was not, nothing was shifted out. -/
theorem eq_zero_of_crcShift_eq_zero {c : Half} (h : crcShift c = 0) : c = 0 := by
  unfold crcShift at h
  split at h
  case isTrue =>
    have low := congrArg (·.getLsbD 0) h
    simp at low
  case isFalse top =>
    have small : 2 * c.toNat < 2 ^ 16 :=
      BitVec.msb_eq_false_iff_two_mul_lt.mp (by simpa [BitVec.msb_eq_getLsbD_last] using top)
    have shifted : c.toNat <<< 1 % 2 ^ 16 = 0 := by simpa using congrArg BitVec.toNat h
    rw [Nat.shiftLeft_eq] at shifted
    exact BitVec.eq_of_toNat_eq (by simp; omega)

theorem crcShift_injective : Function.Injective crcShift := by
  intro a b h
  have : crcShift (a ^^^ b) = 0 := by rw [crcShift_xor, h, BitVec.xor_self]; rfl
  exact BitVec.xor_eq_zero_iff.mp (eq_zero_of_crcShift_eq_zero this)

theorem crcShifts_eq_iterate (n : Nat) : crcShifts n = crcShift^[n] := by
  induction n with
  | zero => rfl
  | succ n ih => rw [Function.iterate_succ, ← ih]; rfl

theorem crcShift_iterate_xor (n : Nat) (a b : Half) : crcShift^[n] (a ^^^ b) = crcShift^[n] a ^^^ crcShift^[n] b :=
  Function.Semiconj₂.iterate crcShift_xor n a b

/-- In the low half of the register, a byte meets the polynomial in none of the next eight shifts. -/
theorem crcShift_iterate_byte (b : Byte) {n : Nat} (hn : n ≤ 8) :
    crcShift^[n] (b.zeroExtend 16) = b.zeroExtend 16 <<< n := by
  induction n with
  | zero => simp
  | succ n ih =>
    have top : (b.zeroExtend 16 <<< n).getLsbD 15 = false := by
      simp [BitVec.getLsbD_of_ge b (15 - n) (by omega)]
    rw [Function.iterate_succ_apply', ih (by omega), crcShift, top, BitVec.shiftLeft_add]
    rfl

/-! ### Bytes entering the register -/

theorem crcByte_eq (c : Half) (b : Byte) : crcByte c b = crcShift^[8] (c ^^^ b.zeroExtend 16 <<< 8) := by
  rw [crcByte, crcShifts_eq_iterate]

theorem be16_eq_xor (a b : Byte) : be16 a b = a.zeroExtend 16 <<< 8 ^^^ b.zeroExtend 16 := by
  refine BitVec.eq_of_getLsbD_eq fun i hi => ?_
  have field : (be16 a b).getLsbD i = if i < 8 then b.getLsbD i else a.getLsbD (i - 8) := BitVec.getLsbD_append
  rw [field, BitVec.getLsbD_xor]
  by_cases low : i < 8
  · simp [low, hi]
  · simp [low, hi, BitVec.getLsbD_of_ge b i (by omega)]

theorem crcByte_left_injective (b : Byte) : Function.Injective (crcByte · b) := by
  intro c d h
  simp only [crcByte_eq] at h
  exact (BitVec.xor_left_inj _).mp (crcShift_injective.iterate 8 h)

theorem crcByte_right_injective (c : Half) : Function.Injective (crcByte c) := by
  intro a b h
  simp only [crcByte_eq] at h
  have fields : be16 a 0 = be16 b 0 := by
    simpa [be16_eq_xor] using crcShift_injective.iterate 8 h
  rw [← hi8_be16 a 0, fields, hi8_be16]

theorem crcFrom_injective (B : List Byte) : Function.Injective (crcFrom · B) := by
  induction B with
  | nil => exact fun _ _ h => h
  | cons b B ih => exact ih.comp (crcByte_left_injective b)

theorem crcFrom_append (c : Half) (A B : List Byte) : crcFrom c (A ++ B) = crcFrom (crcFrom c A) B :=
  List.foldl_append

theorem crc16_append (A B : List Byte) : crc16 (A ++ B) = crcFrom (crc16 A) B := crcFrom_append ..

/-- Two bytes enter the register as one 16-bit field. -/
theorem crcFrom_two_bytes (c : Half) (a b : Byte) : crcFrom c [a, b] = crcShift^[16] (c ^^^ be16 a b) := by
  change crcByte (crcByte c a) b = _
  rw [crcByte_eq, crcByte_eq, ← crcShift_iterate_byte b (Nat.le_refl 8), ← crcShift_iterate_xor,
    ← Function.iterate_add_apply, BitVec.xor_assoc, be16_eq_xor]

/-- The register is 0 after two bytes exactly if the two bytes are what it held. -/
theorem crcFrom_two_bytes_eq_zero {c : Half} {a b : Byte} : crcFrom c [a, b] = 0 ↔ c = be16 a b := by
  have zero : crcShift^[16] 0 = 0 := Function.iterate_fixed rfl 16
  calc crcFrom c [a, b] = 0 ↔ crcShift^[16] (c ^^^ be16 a b) = crcShift^[16] 0 := by rw [crcFrom_two_bytes, zero]
    _ ↔ c ^^^ be16 a b = 0 := (crcShift_injective.iterate 16).eq_iff
    _ ↔ c = be16 a b := BitVec.xor_eq_zero_iff

/-! ### The residue -/

theorem take_add_two {B : List Byte} {m : Nat} (h : m + 2 ≤ B.length) :
    B.take (m + 2) = B.take m ++ [byteAt B m, byteAt B (m + 1)] := by
  have at_eq {i : Nat} (hi : i < B.length) : byteAt B i = B[i] := by simp [byteAt, hi]
  rw [List.take_succ_eq_append_getElem (by omega), List.take_succ_eq_append_getElem (by omega), at_eq (by omega),
    at_eq (by omega), List.append_assoc]
  rfl

/-- The comparison of R103 is true exactly if the CRC over all n bytes is 0 (R104). -/
theorem crcMatches_iff_residue {B : List Byte} {n : Nat} (two : 2 ≤ n) (hn : n ≤ B.length) :
    crcMatches B n = true ↔ crc16 (B.take n) = 0 := by
  obtain ⟨m, rfl⟩ := Nat.exists_eq_add_of_le' two
  rw [take_add_two hn, crc16_append, crcFrom_two_bytes_eq_zero]
  exact beq_iff_eq

theorem crc16_sealed (B : List Byte) : crc16 (sealed B) = 0 := by
  rw [sealed, crc16_append]
  exact crcFrom_two_bytes_eq_zero.mpr (be16_bytes _).symm

/-- Replacing one byte by another changes the CRC: the byte's step differs, and the steps after it are injective. -/
theorem crc16_set_ne {F : List Byte} {j : Nat} (hj : j < F.length) {b : Byte} (hb : b ≠ byteAt F j) :
    crc16 (F.set j b) ≠ crc16 F := by
  intro h
  have parts : F = F.take j ++ byteAt F j :: F.drop (j + 1) := by simp [byteAt, hj]
  rw [List.set_eq_take_append_cons_drop, if_pos hj] at h
  conv at h => rhs; rw [parts]
  rw [crc16_append, crc16_append] at h
  exact hb (crcByte_right_injective _ (crcFrom_injective _ h))

theorem flipBit_length (F : List Byte) (i : Nat) : (flipBit F i).length = F.length := List.length_set

/-- Flipping a bit changes the CRC. -/
theorem crc16_flipBit_ne {F : List Byte} {i : Nat} (hi : i < 8 * F.length) : crc16 (flipBit F i) ≠ crc16 F := by
  have bit : ∀ k < 8, (1 : Byte) <<< k ≠ 0 := by decide
  refine crc16_set_ne (by omega) fun h => bit (i % 8) (Nat.mod_lt i (by decide)) ?_
  exact (BitVec.xor_right_inj _).mp (h.trans BitVec.xor_zero.symm)

/-! ### The obligations -/

/-- Settles O1: the operation's answer, and eight shifts as an iteration of one. -/
theorem crcComputeFollowsTheAlgorithm : Obligations.CrcComputeFollowsTheAlgorithm := by
  refine ⟨fun B n s => ⟨fun h => ?_, fun h => ?_⟩, rfl, fun B b => ?_⟩
  · rw [exec_crcCompute, if_pos h]
    rfl
  · rw [exec_crcCompute, if_neg (Nat.not_le.mpr h)]
  · rw [crc16_append]
    exact crcByte_eq (crc16 B) b

/-- Settles O2: the buffer returned is the first n bytes sealed, then the bytes after the two CRC bytes. -/
theorem crcAppendWritesTheCrc : Obligations.CrcAppendWritesTheCrc := by
  refine fun B n cap s => ⟨fun room whole => ?_, fun h => ?_⟩
  · rw [exec_crcAppend, if_pos ⟨room, whole⟩]
    rfl
  · rw [exec_crcAppend, if_neg (by omega)]

/-- Settles O3: the value returned is the comparison, and the refused ranges are the rest. -/
theorem crcCheckComparesTheCrc : Obligations.CrcCheckComparesTheCrc := by
  refine fun B n s => ⟨fun two h => ?_, fun h => ?_⟩
  · rw [exec_crcCheck, if_pos ⟨two, h⟩]
    rfl
  · rw [exec_crcCheck, if_neg (by omega)]

/-- Settles O4: both operations answer, and their values agree by the residue test. -/
theorem crcCheckIsTheResidueTest : Obligations.CrcCheckIsTheResidueTest := by
  intro B n s two hn
  rw [exec_crcCheck, exec_crcCompute, if_pos ⟨two, hn⟩, if_pos hn]
  refine next_ret_inj.trans (Iff.trans ?_ next_ret_inj.symm)
  rw [Result.checked.injEq, Result.crc.injEq]
  exact crcMatches_iff_residue two hn

/-- Settles O5: sealed bytes have residue 0, and with a bit flipped another residue. -/
theorem crcDetectsEverySingleBitFlip : Obligations.CrcDetectsEverySingleBitFlip := by
  refine ⟨fun B n s room => ⟨appended B n, ?_, ?_⟩, fun B i s hi => ?_⟩
  · rw [exec_crcAppend, if_pos ⟨room, rfl⟩]
    rfl
  · have size : (sealed (B.take n)).length = n + 2 := by rw [sealed_length, List.length_take_of_le (by omega)]
    have fits : n + 2 ≤ (appended B n).length := by simp [appended, size]
    have front : (appended B n).take (n + 2) = sealed (B.take n) := List.take_left' size
    have passes : crcMatches (appended B n) (n + 2) = true := by
      rw [crcMatches_iff_residue (by omega) fits, front, crc16_sealed]
    rw [exec_crcCheck, if_pos ⟨by omega, fits⟩, passes]
    rfl
  · have size : (flipBit (sealed B) i).length = B.length + 2 := by rw [flipBit_length, sealed_length]
    have changed : crc16 (flipBit (sealed B) i) ≠ 0 := by
      rw [← crc16_sealed B]
      exact crc16_flipBit_ne (by rwa [sealed_length])
    have fails : crcMatches (flipBit (sealed B) i) (B.length + 2) = false := by
      rw [← Bool.not_eq_true, crcMatches_iff_residue (by omega) size.ge, ← size, List.take_length]
      exact changed
    rw [exec_crcCheck, if_pos ⟨by omega, size.ge⟩, fails]
    rfl

end Sys2Proof.Machine
end

section
/-! PROOFS of the synchronizer family: the parse step and its fixpoint (spec/41_synchronizer.md R113 to R120), RX_PUSH (R112), FLUSH
(R121), and what becomes of frames and garbage in the buffer (R123 to R126). -/

namespace Sys2Proof.Machine

variable {s t : State}

/-! ### The five outcomes of a parse step, by what stands at the front (R113) -/

theorem execParseStep_idle (idle : s.syncBusy = false) : execParseStep s = .fault .parseStepNotEnabled :=
  if_pos idle

theorem execParseStep_empty (busy : s.syncBusy = true) (empty : s.buf = []) : execParseStep s = .next (haltEmpty s) := by
  rw [execParseStep, if_neg (by simp [busy]), front_empty_iff.mpr empty]

theorem execParseStep_of_unrecognized (busy : s.syncBusy = true) (hf : front s.cfg s.buf = .unrecognized) :
    execParseStep s = .next (dropUnrecognized s) := by
  rw [execParseStep, if_neg (by simp [busy]), hf]

theorem execParseStep_of_incomplete {k : InKind} (busy : s.syncBusy = true) (hf : front s.cfg s.buf = .incomplete k) :
    execParseStep s = .next (haltIncomplete s) := by
  rw [execParseStep, if_neg (by simp [busy]), hf]

theorem execParseStep_of_complete {k : InKind} (busy : s.syncBusy = true) (hf : front s.cfg s.buf = .complete k) :
    execParseStep s = .next (finishFrame k (s.buf.read 0 (inboundSize k)) s) := by
  rw [execParseStep, if_neg (by simp [busy]), hf]

/-- An enabled parse step always completes (R120). -/
theorem execParseStep_completes (busy : s.syncBusy = true) : ∃ t, execParseStep s = .next t := by
  cases hf : front s.cfg s.buf with
  | empty => exact ⟨_, execParseStep_empty busy (front_empty_iff.mp hf)⟩
  | unrecognized => exact ⟨_, execParseStep_of_unrecognized busy hf⟩
  | incomplete k => exact ⟨_, execParseStep_of_incomplete busy hf⟩
  | complete k => exact ⟨_, execParseStep_of_complete busy hf⟩

theorem execParseStep_unrecognized {b : Byte} {rest : List Byte} (busy : s.syncBusy = true) (hb : s.buf = b :: rest)
    (unknown : ∀ k, s.cfg.inboundId k ≠ b) : execParseStep s = .next (dropUnrecognized s) :=
  execParseStep_of_unrecognized busy (front_unrecognized_iff.mpr ⟨b, by simp [hb], Config.kindOf_none.mpr unknown⟩)

theorem execParseStep_incomplete {b : Byte} {rest : List Byte} {k : InKind} (busy : s.syncBusy = true)
    (hb : s.buf = b :: rest) (hk : s.cfg.kindOf b = some k) (short : s.buf.length < inboundSize k) :
    execParseStep s = .next (haltIncomplete s) :=
  execParseStep_of_incomplete busy (front_incomplete_iff.mpr ⟨⟨b, by simp [hb], hk⟩, short⟩)

/-- A whole window at the front is tested by its CRC (R106). -/
theorem execParseStep_window {k : InKind} {F rest : List Byte} (busy : s.syncBusy = true) (hb : s.buf = F ++ rest)
    (hl : F.length = inboundSize k) (hk : s.cfg.kindOf (byteAt F 0) = some k) :
    execParseStep s = .next (finishFrame k F s) := by
  rw [execParseStep_of_complete busy (hb ▸ front_of_frame hl hk), hb, read_of_frame hl]

theorem finishFrame_valid {k : InKind} {F : List Byte} (hl : F.length = inboundSize k) (valid : frameValid F = true) :
    finishFrame k F s = accept k F s :=
  if_pos (hl ▸ valid)

theorem finishFrame_invalid {k : InKind} {F : List Byte} (hl : F.length = inboundSize k) (invalid : frameValid F = false) :
    finishFrame k F s = dropBadCrc s :=
  if_neg (hl ▸ Bool.eq_false_iff.mp invalid)

/-- Settles O7: an equation for what stands at the front in each of the five cases. -/
theorem parseStepTakesOneOfFiveOutcomes : Obligations.ParseStepTakesOneOfFiveOutcomes := by
  refine fun s busy => ⟨execParseStep_empty busy, fun b rest hb unknown => ?_,
    fun b rest k => execParseStep_incomplete busy, fun k F rest hb hl hk valid => ?_, fun k F rest hb hl hk invalid => ?_⟩
  · rw [exec, execParseStep_unrecognized busy hb unknown, dropUnrecognized, hb]
    rfl
  · rw [← accept_eq hb hl, ← finishFrame_valid hl valid]
    exact execParseStep_window busy hb hl hk
  · rw [exec, execParseStep_window busy hb hl hk, finishFrame_invalid hl invalid]
    rfl

/-! ### Frames as instructions (R113, R118, R126) -/

theorem receive_window {k : InKind} {F rest : List Byte} (busy : s.syncBusy = true) (hb : s.buf = F ++ rest)
    (hl : F.length = inboundSize k) (hf : front s.cfg (F ++ rest) = .complete k) :
    receive k F s = .next (finishFrame k F s) := by
  rw [receive, if_neg (by simp [busy]), hb, if_pos ⟨hf, read_of_frame hl⟩]

theorem receive_idle {k : InKind} {F : List Byte} (idle : s.syncBusy = false) :
    receive k F s = .fault .parseStepNotEnabled :=
  if_pos idle

theorem receive_elsewhere {k : InKind} {F : List Byte} (busy : s.syncBusy = true)
    (elsewhere : s.buf.take (inboundSize k) ≠ F) : receive k F s = .fault .frameNotAtFront := by
  rw [receive, if_neg (by simp [busy]), if_neg fun h => elsewhere h.2]

/-- An inbound frame that goes on to a next state does not clear `SYNC_BUSY`: its outcomes are ACCEPT and DROP_BAD_CRC (R117, R118). -/
theorem receive_syncBusy {k : InKind} {F : List Byte} (h : receive k F s = .next t) : t.syncBusy = s.syncBusy := by
  unfold receive at h
  split at h
  · cases h
  · split at h <;> cases h
    unfold finishFrame
    split <;> simp [accept, dropBadCrc]

/-- PARSE_STEP and the inbound frames answer a next state only as parse steps. -/
theorem execParseStep_of_exec {i : Instr} (hi : i = .parseStep ∨ (i.inFrame s.cfg).isSome = true) (h : exec i s = .next t) :
    execParseStep s = .next t := by
  obtain rfl | inbound := hi
  · exact h
  · obtain ⟨⟨k, F⟩, hF⟩ := Option.isSome_iff_exists.mp inbound
    exact receive_eq_parseStep (exec_inFrame hF ▸ h)

/-- Settles O22: the frame is the window at the front, and its CRC test fails. -/
theorem corruptedFrameLosesOneByte : Obligations.CorruptedFrameLosesOneByte := by
  intro s i k F rest hc busy hi hb invalid
  rw [exec_inFrame hi, receive_window busy hb (inFrame_length hi) (front_inFrame hc hi rest),
    finishFrame_invalid (inFrame_length hi) invalid]
  rfl

/-- Settles O23: the two tests before a frame is examined. -/
theorem framesRunOnlyAtTheFront : Obligations.FramesRunOnlyAtTheFront := by
  refine fun s i => ⟨fun idle hi => ?_, fun k F busy hi elsewhere => ?_⟩
  · obtain rfl | inbound := hi
    · exact execParseStep_idle idle
    · obtain ⟨⟨k, F⟩, hF⟩ := Option.isSome_iff_exists.mp inbound
      rw [exec_inFrame hF, receive_idle idle]
  · rw [exec_inFrame hi, receive_elsewhere busy elsewhere]

/-! ### What a parse step removes, and when it halts -/

/-- A parse step removes no byte, one byte, or the frame it emits from the front (R113). -/
theorem execParseStep_buf (h : execParseStep s = .next t) :
    ∃ n, (n = 0 ∨ n = 1 ∨ ∃ k F, n = inboundSize k ∧ t.out = s.out ++ [⟨k, F⟩]) ∧ t.buf = s.buf.dropFront n := by
  obtain ⟨-, ⟨-, rfl⟩ | ⟨-, rfl⟩ | ⟨-, rfl⟩ | ⟨k, -, -, rfl⟩ | ⟨k, -, -, rfl⟩⟩ := execParseStep_cases h
  · exact ⟨0, .inl rfl, rfl⟩
  · exact ⟨1, .inr (.inl rfl), rfl⟩
  · exact ⟨0, .inl rfl, rfl⟩
  · exact ⟨inboundSize k, .inr (.inr ⟨k, s.buf.read 0 (inboundSize k), rfl, by simp [accept]⟩), rfl⟩
  · exact ⟨1, .inr (.inl rfl), rfl⟩

/-- A parse step that clears `SYNC_BUSY` is a halt: the buffer is at a fixpoint and is kept (R114, R116). -/
theorem execParseStep_halts (h : execParseStep s = .next t) (idle : t.syncBusy = false) :
    atFixpoint s.cfg s.buf ∧ t.buf = s.buf ∧
      (t.results = s.results ++ [.parsed .haltEmpty] ∨ t.results = s.results ++ [.parsed .haltIncomplete]) := by
  obtain ⟨busy, ⟨empty, rfl⟩ | ⟨-, rfl⟩ | ⟨⟨k, hf⟩, rfl⟩ | ⟨k, -, -, rfl⟩ | ⟨k, -, -, rfl⟩⟩ := execParseStep_cases h
  · exact ⟨.inl empty, rfl, .inl rfl⟩
  · simp [dropUnrecognized, busy] at idle
  · obtain ⟨⟨b, hb, hk⟩, short⟩ := front_incomplete_iff.mp hf
    exact ⟨.inr ⟨b, k, hb, hk, short⟩, rfl, .inr rfl⟩
  · simp [accept, busy] at idle
  · simp [dropBadCrc, busy] at idle

theorem Memory.length_dropFront_lt {m : Memory} {b : Byte} {n : Nat} (held : m.head? = some b) (hn : 0 < n) :
    (m.dropFront n).length < m.length := by
  obtain ⟨rest, rfl⟩ := List.head?_eq_some_iff.mp held
  rw [Memory.dropFront, List.length_drop, List.length_cons]
  omega

/-- A parse step that does not halt removes at least one byte (R120). -/
theorem execParseStep_shrinks (h : execParseStep s = .next t) (busy : t.syncBusy = true) : t.buf.length < s.buf.length := by
  obtain ⟨-, ⟨-, rfl⟩ | ⟨⟨b, held, -⟩, rfl⟩ | ⟨-, rfl⟩ | ⟨k, hf, -, rfl⟩ | ⟨k, hf, -, rfl⟩⟩ := execParseStep_cases h
  · simp [haltEmpty] at busy
  · exact Memory.length_dropFront_lt held Nat.one_pos
  · simp [haltIncomplete] at busy
  · obtain ⟨⟨b, held, -⟩, -⟩ := front_complete_iff.mp hf
    exact Memory.length_dropFront_lt held (Nat.lt_of_lt_of_le (by decide) (inboundSize_pos k))
  · obtain ⟨⟨b, held, -⟩, -⟩ := front_complete_iff.mp hf
    exact Memory.length_dropFront_lt held Nat.one_pos

theorem parseSteps_succ {n : Nat} (h : execParseStep s = .next t) : parseSteps (n + 1) s = parseSteps n t := by
  rw [parseSteps, h]

/-- With fewer than n bytes held, at most n parse steps reach a halt: by induction on n, since each other step shortens the buffer
(R120). -/
theorem parseSteps_reaches_idle {n : Nat} (busy : s.syncBusy = true) (hn : s.buf.length < n) :
    ∃ m t, m ≤ n ∧ parseSteps m s = some t ∧ t.syncBusy = false := by
  induction n generalizing s with
  | zero => omega
  | succ n ih =>
    obtain ⟨t, first⟩ := execParseStep_completes busy
    cases ht : t.syncBusy with
    | false => exact ⟨1, t, by omega, parseSteps_succ first, ht⟩
    | true =>
      obtain ⟨m, u, hm, run, idle⟩ := ih ht (by have := execParseStep_shrinks first ht; omega)
      exact ⟨m + 1, u, by omega, (parseSteps_succ first).trans run, idle⟩

/-- Settles O12: each parse step but a halt shortens the buffer. -/
theorem parsingReachesAFixpoint : Obligations.ParsingReachesAFixpoint :=
  ⟨fun _ => execParseStep_completes, fun _ _ => execParseStep_shrinks,
    fun _ busy => parseSteps_reaches_idle busy (Nat.lt_succ_self _)⟩

theorem execParseStep_draws (h : execParseStep s = .next t) : t.draws = s.draws := by
  obtain ⟨-, ⟨-, rfl⟩ | ⟨-, rfl⟩ | ⟨-, rfl⟩ | ⟨k, -, -, rfl⟩ | ⟨k, -, -, rfl⟩⟩ := execParseStep_cases h <;>
    simp [haltEmpty, dropUnrecognized, haltIncomplete, accept, dropBadCrc]

/-- Settles O60: the instruction is a parse step, and those only drop from the front and write an accepted kind's registers. -/
theorem frameOfParsing : Obligations.FrameOfParsing := by
  intro s t i hi h
  have parse := execParseStep_of_exec hi h
  obtain ⟨sched, offered, waiters⟩ := execParseStep_queues parse
  obtain ⟨n, hn, dropped⟩ := execParseStep_buf parse
  refine ⟨⟨n, hn, fun a => by rw [dropped, Memory.byte_dropFront]⟩, (execParseStep_returns parse).1, waiters, offered, sched,
    execParseStep_cfg parse, execParseStep_draws parse, ?_⟩
  obtain ⟨-, ack, nackId, reason⟩ | ⟨k, F, out, ack, nackId, reason⟩ := execParseStep_lastSeen parse
  · exact ⟨.inl ack, .inl ⟨nackId, reason⟩⟩
  · cases k with
    | ack => exact ⟨.inr ⟨F, out⟩, .inl ⟨nackId, reason⟩⟩
    | nack => exact ⟨.inl ack, .inr ⟨F, out⟩⟩
    | status | deviceInfo | coordinate | extendedCoordinates => exact ⟨.inl ack, .inl ⟨nackId, reason⟩⟩

/-! ### RX_PUSH (R112) -/

theorem rxPush_holds {C : List Byte} (busy : s.syncBusy = true) : exec (.rxPush C) s = .next (s.hold (.rxPush C)) :=
  if_pos busy

theorem rxPush_idle {C : List Byte} (idle : s.syncBusy = false) :
    exec (.rxPush C) s =
      if chunkOk C = false then .refused .chunkLength
      else if s.cfg.bufCap < s.buf.length + C.length then .refused .bufferOverflow
      else .next { s with buf := s.buf ++ C, syncBusy := true } :=
  if_neg (by simp [idle])

theorem rxPush_admits {C : List Byte} (idle : s.syncBusy = false) (nonempty : C ≠ []) (short : C.length ≤ 259)
    (fits : s.buf.length + C.length ≤ s.cfg.bufCap) :
    exec (.rxPush C) s = .next { s with buf := s.buf ++ C, syncBusy := true } := by
  have hc : chunkOk C = true := chunkOk_iff.mpr ⟨List.length_pos_of_ne_nil nonempty, short⟩
  rw [rxPush_idle idle, if_neg (by simp [hc]), if_neg (by omega)]

/-- A push that answers a next state holds or is admitted. -/
theorem rxPush_cases {C : List Byte} (h : exec (.rxPush C) s = .next t) :
    (s.syncBusy = true ∧ t = s.hold (.rxPush C)) ∨
      (s.syncBusy = false ∧ t = { s with buf := s.buf ++ C, syncBusy := true }) := by
  cases hb : s.syncBusy with
  | true =>
    rw [rxPush_holds hb] at h
    cases h
    exact .inl ⟨rfl, rfl⟩
  | false =>
    rw [rxPush_idle hb] at h
    split at h
    · cases h
    · split at h <;> cases h
      exact .inr ⟨rfl, rfl⟩

/-- With `SYNC_BUSY = 0` fewer bytes are held than the longest frame has (R119). -/
theorem State.SyncInv.idle_length (h : s.SyncInv) (idle : s.syncBusy = false) : s.buf.length ≤ 258 := by
  obtain empty | ⟨b, k, -, -, short⟩ := h.2 idle
  · simp [empty]
  · have size : inboundSize k ≤ 259 := inboundSize_le_maxFrame k
    omega

/-- Settles O6: the tests of the push in their order; under the invariant 258 + 259 bytes fit. -/
theorem rxPushAppendsItsChunk : Obligations.RxPushAppendsItsChunk := by
  refine fun C s => ⟨rxPush_holds, fun idle bad => ?_, fun idle nonempty short tooMuch => ?_, rxPush_admits,
    fun idle inv cap nonempty short => ?_⟩
  · have hc : chunkOk C = false := by
      rw [← Bool.not_eq_true, chunkOk_iff]
      obtain rfl | long := bad
      · simp
      · omega
    rw [rxPush_idle idle, if_pos hc]
  · have hc : chunkOk C = true := chunkOk_iff.mpr ⟨List.length_pos_of_ne_nil nonempty, short⟩
    rw [rxPush_idle idle, if_neg (by simp [hc]), if_pos tooMuch]
  · exact rxPush_admits idle nonempty short (by have := inv.idle_length idle; omega)

/-- Settles O59: an admitted push appends, and one that holds keeps the buffer. -/
theorem frameOfRxPush : Obligations.FrameOfRxPush := by
  intro s t C h
  obtain ⟨busy, rfl⟩ | ⟨idle, rfl⟩ := rxPush_cases h
  · exact ⟨fun _ _ => rfl, by simp [busy], fun _ => rfl, rfl, rfl, rfl, rfl, rfl, rfl, rfl, rfl⟩
  · refine ⟨fun a outside => ?_, fun _ j _ => ?_, by simp [idle], rfl, rfl, rfl, rfl, rfl, rfl, rfl, rfl⟩
    · obtain before | after := outside
      · exact Memory.byte_append_left s.buf C before
      · have none_before : s.buf.byte a = none := List.getElem?_eq_none (by omega)
        rw [none_before]
        exact List.getElem?_eq_none (by simpa using after)
    · have at_chunk := Memory.byte_append_right s.buf C (Nat.le_add_right s.buf.length j)
      rwa [Nat.add_sub_cancel_left] at at_chunk

/-! ### The fixpoint invariant (R119) -/

/-- Settles O8: FLUSH's meaning, with no premise. -/
theorem flushEmptiesTheBuffer : Obligations.FlushEmptiesTheBuffer := fun _ => rfl

/-- An empty buffer meets the invariant. -/
theorem syncInv_of_empty (empty : s.buf = []) : s.SyncInv := by
  refine ⟨?_, fun _ => .inl empty⟩
  rw [empty]
  exact Memory.wf_nil _

theorem outInv_of_empty (empty : s.out = []) : s.OutInv := by
  intro e he
  simp [empty] at he

/-- Settles O10: at reset the buffer and the history are empty. -/
theorem resetMeetsTheInvariants : Obligations.ResetMeetsTheInvariants :=
  have any (c : Config) : (State.resetOf c).SyncInv ∧ (State.resetOf c).OutInv :=
    ⟨syncInv_of_empty rfl, outInv_of_empty rfl⟩
  ⟨any, any Config.testConfig⟩

theorem execParseStep_syncInv (inv : s.SyncInv) (h : execParseStep s = .next t) : t.SyncInv := by
  have cfg := execParseStep_cfg h
  refine ⟨?_, fun idle => ?_⟩
  · obtain ⟨n, -, dropped⟩ := execParseStep_buf h
    rw [cfg, dropped]
    exact Memory.wf_dropFront n inv.1
  · obtain ⟨fixpoint, kept, -⟩ := execParseStep_halts h idle
    rwa [cfg, kept]

theorem Effect.syncInv (inv : s.SyncInv) (h : Effect s t) : t.SyncInv := by
  cases h with
  | parses t h => exact execParseStep_syncInv inv h
  | pushes C _ _ fits => exact ⟨Memory.wf_append fits, fun idle => by cases idle⟩
  | flushes | inits | resets => exact syncInv_of_empty rfl
  | returns | allocates | holds | waits => exact inv

theorem step_syncInv (inv : s.SyncInv) (h : step s = .next t) : t.SyncInv := by
  refine step_block_induction (Q := fun s t => s.SyncInv → t.SyncInv) h (fun hu => ?_) (fun _ => id)
    (fun he inv => he.syncInv inv) (fun u n d => ?_) inv
  · rw [hu]
    exact id
  · rw [waiterStep_frame]
    exact id

/-- An instruction is an inbound frame, one of those that write at most `TXN_CTR` and the results, or one of six more. -/
theorem instr_classes (c : Config) (i : Instr) :
    (∃ k F, i.inFrame c = some (k, F)) ∨
    (OnlyReturns i ∨ i = .txnAlloc ∨ (∃ k P cap, i = .txAssemble k P cap) ∨ i.outPayload.isSome = true) ∨
    (∃ C, i = .rxPush C) ∨ (∃ T, i = .txnWait T) ∨ i = .parseStep ∨ i = .flush ∨ i = .sessionInit ∨ i = .reset := by
  cases i <;> simp [Instr.inFrame, Instr.outPayload, OnlyReturns]

theorem emptied_of_exec {i : Instr} (hi : i = .flush ∨ i = .sessionInit ∨ i = .reset) (h : exec i s = .next t) :
    t.buf = [] := by
  obtain rfl | rfl | rfl := hi
  · cases h
    rfl
  · simp only [exec, execSessionInit] at h
    split at h <;> cases h
    rfl
  · simp only [exec, execReset] at h
    split at h <;> cases h
    rfl

/-- Settles O9: the invariant by the effects of a step; `SYNC_BUSY` by the class of the instruction. -/
theorem stepKeepsTheFixpointInvariant : Obligations.StepKeepsTheFixpointInvariant := by
  refine ⟨fun _ => syncInv_of_empty rfl, fun s t h => ?_, fun _ _ => step_syncInv, fun _ => State.SyncInv.idle_length,
    fun s t i h busy idle => ?_⟩
  · exact syncInv_of_empty (emptied_of_exec (.inl rfl) h)
  · have cleared : t.syncBusy ≠ s.syncBusy := by simp [busy, idle]
    obtain ⟨k, F, inbound⟩ | only | ⟨C, rfl⟩ | ⟨T, rfl⟩ | rfl | clears := instr_classes s.cfg i
    · exact absurd (receive_syncBusy (exec_inFrame inbound ▸ h)) cleared
    · exact absurd (congrArg State.syncBusy (exec_sameButTxnCtr h only)) cleared
    · obtain ⟨-, rfl⟩ | ⟨notBusy, -⟩ := rxPush_cases h
      · exact absurd rfl cleared
      · simp [busy] at notBusy
    · cases h
      exact absurd rfl cleared
    · exact .inl ⟨rfl, execParseStep_halts h idle⟩
    · exact .inr ⟨clears, emptied_of_exec clears h⟩

/-! ### Frames and garbage in the buffer (R123 to R125) -/

/-- A valid frame at the front is removed and emitted, whatever follows it, and parsing goes on (R117). -/
theorem execParseStep_validFrame {k : InKind} {F rest : List Byte} (busy : s.syncBusy = true) (hb : s.buf = F ++ rest)
    (hl : F.length = inboundSize k) (hk : s.cfg.kindOf (byteAt F 0) = some k) (valid : frameValid F = true) :
    ∃ t, execParseStep s = .next t ∧ t.buf = rest ∧ t.out = s.out ++ [⟨k, F⟩] ∧ t.syncBusy = true := by
  have step : execParseStep s = .next (accept k F s) := by
    rw [execParseStep_window busy hb hl hk, finishFrame_valid hl valid]
  rw [accept_eq hb hl] at step
  exact ⟨_, step, rfl, rfl, busy⟩

/-- A proper nonempty beginning of a frame is held (R116). -/
theorem execParseStep_beginning {k : InKind} {A Z : List Byte} (busy : s.syncBusy = true) (hb : s.buf = A)
    (nonempty : A ≠ []) (missing : Z ≠ []) (hl : (A ++ Z).length = inboundSize k)
    (hk : s.cfg.kindOf (byteAt (A ++ Z) 0) = some k) : execParseStep s = .next (haltIncomplete s) := by
  obtain ⟨b, rest, rfl⟩ := List.exists_cons_of_ne_nil nonempty
  have more := List.length_pos_of_ne_nil missing
  rw [List.length_append] at hl
  exact execParseStep_incomplete busy hb hk (by rw [hb]; omega)

/-- Settles O15: the step is the acceptance of the whole frame, or the halt at its beginning. -/
theorem validFrameAtTheFrontIsNeverDropped : Obligations.ValidFrameAtTheFrontIsNeverDropped := by
  refine fun s t k F A Z rest hk hl valid h => ⟨fun hb => ?_, fun hb split nonempty missing => ?_⟩
  all_goals have busy := (execParseStep_cases h).1
  · obtain ⟨u, step, buf, out, -⟩ := execParseStep_validFrame busy hb hl hk valid
    cases step.symm.trans h
    exact ⟨buf, out⟩
  · subst split
    rw [exec, execParseStep_beginning busy hb nonempty missing hl hk] at h
    cases h
    exact ⟨rfl, rfl, rfl⟩

/-- Settles O13: by induction on the garbage. -/
theorem garbageBeforeAFrameIsDropped : Obligations.GarbageBeforeAFrameIsDropped := by
  intro s k G F rest busy hb unknown hl hk valid
  rw [List.append_assoc] at hb
  induction G generalizing s with
  | nil =>
    obtain ⟨t, step, accepted⟩ := execParseStep_validFrame (F := F) busy hb hl hk valid
    exact ⟨t, parseSteps_succ step, accepted⟩
  | cons b G ih =>
    have first := execParseStep_unrecognized busy hb (unknown b List.mem_cons_self)
    have dropped : (dropUnrecognized s).buf = G ++ (F ++ rest) := by simp [dropUnrecognized, Memory.dropFront, hb]
    obtain ⟨t, run, accepted⟩ := ih (dropUnrecognized s) busy dropped
      (fun a ha => unknown a (List.mem_cons_of_mem b ha)) hk
    exact ⟨t, (parseSteps_succ first).trans run, accepted⟩

theorem parseRun_idle (n : Nat) (idle : s.syncBusy = false) : parseRun n s = .next s := by
  cases n with
  | zero => rfl
  | succ n => rw [parseRun, if_neg (by simp [idle])]

theorem parseRun_succ {n : Nat} (busy : s.syncBusy = true) (h : execParseStep s = .next t) :
    parseRun (n + 1) s = parseRun n t := by
  rw [parseRun, if_pos busy, h]

theorem rxFeed_admitted {C : List Byte} (idle : s.syncBusy = false) (nonempty : C ≠ []) (short : C.length ≤ 259)
    (fits : s.buf.length + C.length ≤ s.cfg.bufCap) :
    rxFeed C s = parseRun ((s.buf ++ C).length + 1) { s with buf := s.buf ++ C, syncBusy := true } := by
  have push : execRxPush C s = .next { s with buf := s.buf ++ C, syncBusy := true } :=
    rxPush_admits idle nonempty short fits
  rw [rxFeed, push]

/-- A parse run over a beginning of a frame holds it. -/
theorem parseRun_beginning {k : InKind} {A Z : List Byte} {n : Nat} (busy : s.syncBusy = true) (hb : s.buf = A)
    (nonempty : A ≠ []) (missing : Z ≠ []) (hl : (A ++ Z).length = inboundSize k)
    (hk : s.cfg.kindOf (byteAt (A ++ Z) 0) = some k) : parseRun (n + 1) s = .next (haltIncomplete s) := by
  rw [parseRun_succ busy (execParseStep_beginning busy hb nonempty missing hl hk), parseRun_idle n rfl]

/-- A parse run over one valid frame accepts it and halts on the empty buffer. -/
theorem parseRun_validFrame {k : InKind} {F : List Byte} {n : Nat} (two : 2 ≤ n) (busy : s.syncBusy = true)
    (hb : s.buf = F) (hl : F.length = inboundSize k) (hk : s.cfg.kindOf (byteAt F 0) = some k) (valid : frameValid F = true) :
    ∃ t, parseRun n s = .next t ∧ t.out = s.out ++ [⟨k, F⟩] ∧ t.buf = [] ∧ t.syncBusy = false := by
  obtain ⟨n, rfl⟩ := Nat.exists_eq_add_of_le' two
  obtain ⟨t, step, buf, out, busy'⟩ := execParseStep_validFrame busy (hb.trans F.append_nil.symm) hl hk valid
  refine ⟨haltEmpty t, ?_, out, buf, rfl⟩
  rw [parseRun_succ busy step, parseRun_succ busy' (execParseStep_empty busy' buf), parseRun_idle n rfl]

/-- Settles O14: the first run holds the beginning, the second finds the whole frame. -/
theorem splitFrameIsAcceptedOnce : Obligations.SplitFrameIsAcceptedOnce := by
  intro s k A B idle empty cap hA hB hl hk valid
  have size : inboundSize k ≤ 259 := inboundSize_le_maxFrame k
  have room : A.length + B.length ≤ 259 := by rwa [← List.length_append, hl]
  have first : rxFeed A s = .next (haltIncomplete { s with buf := A, syncBusy := true }) := by
    rw [rxFeed_admitted idle hA (by omega) (by rw [empty, List.length_nil]; omega), empty]
    exact parseRun_beginning rfl rfl hA hB hl hk
  refine ⟨_, first, rfl, rfl, rfl, ?_⟩
  rw [rxFeed_admitted rfl hB (by omega) (by change A.length + B.length ≤ s.cfg.bufCap; omega)]
  exact parseRun_validFrame (Nat.succ_le_succ (List.length_pos_of_ne_nil (List.append_ne_nil_of_left_ne_nil hA B))) rfl rfl
    hl hk valid

end Sys2Proof.Machine
end

section
/-! PROOFS of the frame decode family: what an accepted frame's event promises (spec/42_frame_decode.md R130), the effect of
accepting each inbound kind, and what its consumer decodes (R131 to R136). -/

namespace Sys2Proof.Machine

variable {s t : State}

/-! ### Events are whole frames (R130) -/

/-- A complete window that passes the CRC test is what an `Accept` event promises. -/
theorem event_ok_of_window {k : InKind} (hf : front s.cfg s.buf = .complete k)
    (valid : crcMatches (s.buf.read 0 (inboundSize k)) (inboundSize k) = true) :
    Event.ok s.cfg ⟨k, s.buf.read 0 (inboundSize k)⟩ := by
  have length := read_front_length hf
  obtain ⟨⟨b, head, kind⟩, -⟩ := front_complete_iff.mp hf
  refine ⟨length, ?_, by rwa [frameValid, length]⟩
  have first : byteAt (s.buf.read 0 (inboundSize k)) 0 = byteAt s.buf 0 :=
    byteAt_take (Nat.lt_of_lt_of_le (by decide) (inboundSize_pos k)) s.buf
  exact first.trans ((byteAt_zero_of_head? head).trans (Config.kindOf_some kind).symm)

theorem outInv_of_same (cfg : t.cfg = s.cfg) (out : t.out = s.out) (inv : s.OutInv) : t.OutInv := by
  rwa [State.OutInv, cfg, out]

theorem outInv_of_event {e : Event} (cfg : t.cfg = s.cfg) (out : t.out = s.out ++ [e]) (ok : e.ok s.cfg) (inv : s.OutInv) :
    t.OutInv := by
  rw [State.OutInv, cfg, out, List.forall_mem_append, List.forall_mem_singleton]
  exact ⟨inv, ok⟩

/-- Only an ACCEPT emits, and it emits the window it tested (R117). -/
theorem execParseStep_outInv (inv : s.OutInv) (h : execParseStep s = .next t) : t.OutInv := by
  have cfg := execParseStep_cfg h
  obtain ⟨-, ⟨-, rfl⟩ | ⟨-, rfl⟩ | ⟨-, rfl⟩ | ⟨k, hf, valid, rfl⟩ | ⟨k, -, -, rfl⟩⟩ := execParseStep_cases h
  · exact outInv_of_same cfg rfl inv
  · exact outInv_of_same cfg rfl inv
  · exact outInv_of_same cfg rfl inv
  · exact outInv_of_event cfg (by simp [accept]) (event_ok_of_window hf valid) inv
  · exact outInv_of_same cfg rfl inv

theorem Effect.outInv (inv : s.OutInv) (h : Effect s t) : t.OutInv := by
  cases h with
  | parses t h => exact execParseStep_outInv inv h
  | returns | allocates | pushes | holds | flushes | waits | inits | resets => exact outInv_of_same rfl rfl inv

/-- Settles O11: of the effects of a step only a parse step writes the history. -/
theorem stepKeepsEventsValidFrames : Obligations.StepKeepsEventsValidFrames := by
  intro s t inv h
  refine step_block_induction (Q := fun s t => s.OutInv → t.OutInv) h (fun hu => ?_) (fun _ => id)
    (fun he inv => he.outInv inv) (fun u n d => ?_) inv
  · rw [hu]
    exact id
  · rw [waiterStep_frame]
    exact id

/-! ### Accepting a valid frame (R117) -/

/-- A valid inbound frame at the front, as an instruction, is accepted: it is removed and emitted, an ACK's and a NACK's registers
are written from it, and nothing else changes. -/
theorem exec_validFrame {i : Instr} {k : InKind} {F rest : List Byte} (hc : s.cfg.valid = true) (busy : s.syncBusy = true)
    (hi : i.inFrame s.cfg = some (k, F)) (hb : s.buf = F ++ rest) (valid : frameValid F = true) :
    exec i s =
      .next { s with
        buf := rest
        out := s.out ++ [⟨k, F⟩]
        lastAckId := if k = .ack then byteAt F 1 else s.lastAckId
        lastNackId := if k = .nack then byteAt F 1 else s.lastNackId
        lastNackReason := if k = .nack then byteAt F 2 else s.lastNackReason
        results := s.results ++ [.parsed (.accept k)] } := by
  have size := inFrame_length hi
  rw [exec_inFrame hi, receive_window busy hb size (front_inFrame hc hi rest), finishFrame_valid size valid, accept_eq hb size]

/-- A frame instruction that goes on to a next state is an ACCEPT of its own kind or a DROP_BAD_CRC (R117, R118). -/
theorem receive_cases {k : InKind} {F : List Byte} (h : receive k F s = .next t) : t = accept k F s ∨ t = dropBadCrc s := by
  unfold receive at h
  split at h
  · cases h
  · split at h <;> cases h
    exact ite_eq_or_eq ..

/-- Settles O16: no register is a STATUS frame's, and its fields are bytes 1 to 7. -/
theorem statusFrameIsAccepted : Obligations.StatusFrameIsAccepted := fun _ txid st mo up _ _ hc busy hb valid =>
  ⟨exec_validFrame (k := .status) hc busy rfl hb valid, congrArg (StatusInfo.mk txid st mo) (be32_bytes up), bne_iff_ne⟩

/-- Settles O17: no register is a DEVICE_INFO frame's, and its fields are bytes 1 to 8. -/
theorem deviceInfoFrameIsAccepted : Obligations.DeviceInfoFrameIsAccepted :=
  fun _ txid hw ma mi sn _ _ hc busy hb valid =>
    ⟨exec_validFrame (k := .deviceInfo) hc busy rfl hb valid, congrArg (DeviceInfo.mk txid hw ma mi) (be32_bytes sn)⟩

/-- Settles O20: the register written at ACCEPT is byte 1. -/
theorem ackFrameSetsLastAckId : Obligations.AckFrameSetsLastAckId := fun _ _ _ _ hc busy hb valid =>
  ⟨exec_validFrame (k := .ack) hc busy rfl hb valid, rfl⟩

/-- Settles O21: both outcomes of an ACK keep the pair; a NACK's ACCEPT writes it from bytes 1 and 2. -/
theorem nackFrameSetsTheNackPair : Obligations.NackFrameSetsTheNackPair := by
  refine ⟨fun s t txid crc h => ?_, fun _ _ _ _ _ hc busy hb valid => ⟨exec_validFrame (k := .nack) hc busy rfl hb valid, rfl⟩⟩
  obtain rfl | rfl := receive_cases (k := .ack) h <;> exact ⟨rfl, rfl⟩

/-! ### Sixteen slots (R133, R134) -/

theorem byteAt_drop (n i : Nat) (B : List Byte) : byteAt (B.drop n) i = byteAt B (n + i) := by
  simp [byteAt]

/-- The i-th of n records of w bytes is read from the w bytes at index w * i. -/
theorem recordsOf_eq_map_range {α : Type} (rd : List Byte → α) (w n : Nat) (B : List Byte) :
    recordsOf rd w n B = (List.range n).map fun i => rd ((B.drop (w * i)).take w) := by
  induction n generalizing B with
  | zero => rfl
  | succ n ih => simp [recordsOf, ih, List.range_succ_eq_map, Function.comp_def, Nat.mul_succ, Nat.add_comm w]

/-- Slots decoded at 1, 1 + w, 1 + 2w, ... of a frame that writes a vector of records of w bytes after its ID are what the
records themselves give. -/
theorem slots_of_recordBytes {α β : Type} {wr : α → List Byte} {rd : List Byte → α} {w n : Nat}
    (hw : ∀ a, (wr a).length = w) (hr : ∀ a, rd (wr a) = a) {slot : List Byte → Nat → β} {view : α → β}
    (hs : ∀ F i, slot F i = view (rd ((F.drop (1 + w * i)).take w))) (b : Byte) (v : Vector α n) (Z : List Byte) :
    (List.range n).map (slot ([b] ++ recordBytes wr v.toList ++ Z)) = v.toList.map view := by
  have records := recordsOf_recordBytes hw hr v.toList Z
  rw [Vector.length_toList, recordsOf_eq_map_range] at records
  rw [← congrArg (List.map view) records, List.map_map]
  refine List.map_congr_left fun i _ => ?_
  rw [hs, Nat.add_comm 1]
  rfl

/-- What a consumer reads of a point record (R133). -/
def pointView (p : Point) : PointInfo := ⟨p.x, p.y, p.brightness, decide (p.brightness ≠ 0)⟩

/-- What a consumer reads of an extended record: the coordinates' low 14 bits, the other fields as sent (R134). -/
def extPointView (r : ExtRecord) : ExtPointInfo :=
  ⟨r.area, r.rawX &&& 0x3FFF, r.rawY &&& 0x3FFF, r.averageBrightness, r.maximumBrightness, r.range, r.radius,
    [r.boundary0, r.boundary1, r.boundary2, r.boundary3], r.aspectRatio, r.vx, r.vy⟩

theorem decodePoint_eq_pointView (F : List Byte) (i : Nat) :
    decodePoint F i = pointView (pointOf ((F.drop (1 + 5 * i)).take 5)) := by
  simp [decodePoint, pointView, pointOf, byteAt_take, byteAt_drop, bne, Bool.beq_eq_decide_eq]

theorem decodeExtPoint_eq_extPointView (F : List Byte) (i : Nat) :
    decodeExtPoint F i = extPointView (extRecordOf ((F.drop (1 + 16 * i)).take 16)) := by
  simp [decodeExtPoint, extPointView, extRecordOf, byteAt_take, byteAt_drop, extCoordMask]

/-- Settles O18: no register is a COORDINATE frame's, and each slot is the view of its record. -/
theorem coordinateFrameIsAccepted : Obligations.CoordinateFrameIsAccepted := fun _ ps _ _ hc busy hb valid =>
  ⟨exec_validFrame (k := .coordinate) hc busy rfl hb valid,
    slots_of_recordBytes Point.bytes_length pointOf_bytes decodePoint_eq_pointView _ ps _⟩

/-- Settles O19: no register is an EXTENDED_COORDINATES frame's, and each slot is the masked view of its record. -/
theorem extendedCoordinatesFrameIsAccepted : Obligations.ExtendedCoordinatesFrameIsAccepted :=
  fun _ rs _ _ hc busy hb valid =>
    ⟨exec_validFrame (k := .extendedCoordinates) hc busy rfl hb valid,
      slots_of_recordBytes ExtRecord.bytes_length extRecordOf_bytes decodeExtPoint_eq_extPointView _ rs _⟩

end Sys2Proof.Machine
end

section
/-! PROOFS of the transaction family: transaction IDs (spec/43_transaction.md R150), assembling frames (R152, R163 to R169), and
the steps and outcomes of a wait (R154 to R162). -/

namespace Sys2Proof.Machine

variable {s t : State}

/-! ### Taking a transaction ID (R150) -/

/-- Settles O33: adding one to a byte is adding modulo 256. -/
theorem txnAllocReturnsAndAdvances : Obligations.TxnAllocReturnsAndAdvances := by
  intro s
  have wraps : BitVec.ofNat 8 ((s.txnCtr.toNat + 1) % 256) = s.txnCtr + 1 := by bv_omega
  rw [wraps]
  rfl

/-! ### Assembling a frame (R152) -/

theorem outLength_eq (P : List Byte) : outLength P = P.length + 4 := by
  rw [outLength]
  omega

section
variable {k : OutKind} {P : List Byte} {cap : Nat}

theorem assemble_of_bad_payload (bad : payloadOk s.cfg k P = false) : assemble k P cap s = .refused .payloadShape :=
  if_pos bad

theorem assemble_of_small_group (admitted : payloadOk s.cfg .setRegisterGroup P = true) (small : cap < P.length + 4) :
    assemble .setRegisterGroup P cap s = .next { s with results := s.results ++ [.assembled [] 0 none] } := by
  rw [← outLength_eq] at small
  rw [assemble, if_neg (by simp [admitted]), if_pos ⟨rfl, small⟩]
  rfl

theorem assemble_of_small_buffer (admitted : payloadOk s.cfg k P = true) (fixed : k ≠ .setRegisterGroup)
    (small : cap < P.length + 4) : assemble k P cap s = .refused .txBufferTooSmall := by
  rw [← outLength_eq] at small
  rw [assemble, if_neg (by simp [admitted]), if_neg (by simp [fixed]), if_pos small]

theorem assemble_builds (admitted : payloadOk s.cfg k P = true) (fits : P.length + 4 ≤ cap) :
    assemble k P cap s =
      .next { s with
        txnCtr := s.txnCtr + 1
        results := s.results ++
          [.assembled (sealed ([s.cfg.outboundId k, s.txnCtr] ++ P)) (P.length + 4) (some s.txnCtr)] } := by
  have room : ¬ cap < outLength P := by rw [outLength_eq]; omega
  rw [assemble, if_neg (by simp [admitted]), if_neg (by simp [room]), if_neg room, txFrame_eq, outLength_eq]
  rfl

end

/-- Settles O35: the tests of the assembly in their order, then the frame. -/
theorem txAssembleBuildsTheFrame : Obligations.TxAssembleBuildsTheFrame := by
  refine fun s P cap => ⟨fun k => rfl, fun k => ⟨assemble_of_bad_payload, fun admitted group small => ?_,
    assemble_of_small_buffer, assemble_builds⟩⟩
  subst group
  exact assemble_of_small_group admitted small

/-! ### The builders (R163 to R169) -/

/-- Settles O36: each kind is the assembly of its payload, whose length is what `payload_ok` tests. -/
theorem fixedKindsBuildTheirFrames : Obligations.FixedKindsBuildTheirFrames := by
  have empty : ∀ P : List Byte, (P.length == 0) = true ↔ P = [] := by simp
  have three : ∀ P : List Byte, (P.length == 3) = true ↔ ∃ a b c, P = [a, b, c] := by simp [List.length_eq_three]
  have one : ∀ P : List Byte, (P.length == 1) = true ↔ ∃ a, P = [a] := by simp [List.length_eq_one_iff]
  refine fun s cap => ⟨fun P => ⟨empty P, empty P, three P, three P, one P⟩, fun small => ⟨?_, ?_⟩,
    fun b a v small => ⟨?_, ?_⟩, fun m small => ?_, fun fits => ?_, fun fits => ?_, fun b a v fits => ?_,
    fun r g b fits => ?_, fun m fits => ?_⟩
  · exact assemble_of_small_buffer (k := .getStatus) (P := []) rfl (by decide) small
  · exact assemble_of_small_buffer (k := .getDeviceInfo) (P := []) rfl (by decide) small
  · exact assemble_of_small_buffer (k := .setRegister) (P := [b, a, v]) rfl (by decide) small
  · exact assemble_of_small_buffer (k := .setLeds) (P := [b, a, v]) rfl (by decide) small
  · exact assemble_of_small_buffer (k := .resetBootloader) (P := [m]) rfl (by decide) small
  · exact assemble_builds (k := .getStatus) (P := []) rfl fits
  · exact assemble_builds (k := .getDeviceInfo) (P := []) rfl fits
  · exact assemble_builds (k := .setRegister) (P := [b, a, v]) rfl fits
  · exact assemble_builds (k := .setLeds) (P := [r, g, b]) rfl fits
  · exact assemble_builds (k := .resetBootloader) (P := [m]) rfl fits

theorem payloadOk_setMode_iff {c : Config} {P : List Byte} :
    payloadOk c .setMode P = true ↔ P.length = c.setModeLen.bytes - 4 :=
  beq_iff_eq

/-- Settles O37: `payload_ok` tests the length that each value of SET_MODE_LEN leaves for the payload. -/
theorem setModeBuildsItsFrame : Obligations.SetModeBuildsItsFrame := by
  intro s P cap
  refine ⟨?_, fun admitted fits => ?_, fun admitted => assemble_of_small_buffer admitted (by decide), assemble_of_bad_payload⟩
  · rw [payloadOk_setMode_iff]
    cases s.cfg.setModeLen <;> rfl
  · have size : P.length + 4 = s.cfg.setModeLen.bytes := by
      rw [payloadOk_setMode_iff.mp admitted]
      cases s.cfg.setModeLen <;> rfl
    rw [← size]
    exact assemble_builds admitted fits

theorem recordBytes_eq_flatten_map {α : Type} (wr : α → List Byte) (l : List α) : recordBytes wr l = (l.map wr).flatten := by
  induction l with
  | nil => rfl
  | cons r rs ih => rw [recordBytes, ih, List.map_cons, List.flatten_cons]

theorem groupPayload_length (ts : List RegTriple) : (groupPayload ts).length = 1 + 3 * ts.length := by
  rw [groupPayload, List.length_cons, recordBytes_length RegTriple.bytes_length]
  omega

theorem payloadOk_groupPayload (c : Config) {ts : List RegTriple} (few : ts.length ≤ 19) :
    payloadOk c .setRegisterGroup (groupPayload ts) = true := by
  have count : (BitVec.ofNat 8 ts.length).toNat = ts.length := Nat.mod_eq_of_lt (by omega)
  have bytes : (recordBytes RegTriple.bytes ts).length = 3 * ts.length :=
    recordBytes_length RegTriple.bytes_length ts
  simp [payloadOk, groupPayload, count, bytes, groupMax, few]

/-- `payload_ok` admits a count of at most 19 and that many triples, and nothing else (R167). -/
theorem payloadOk_setRegisterGroup_iff {c : Config} {P : List Byte} :
    payloadOk c .setRegisterGroup P = true ↔ ∃ us : List RegTriple, us.length ≤ 19 ∧ P = groupPayload us := by
  constructor
  · intro admitted
    obtain ⟨N, ts, rfl, few, len⟩ := payloadOk_setRegisterGroup admitted
    refine ⟨recordsOf tripleOf 3 N.toNat ts, by rwa [recordsOf_length], ?_⟩
    rw [groupPayload, recordsOf_length, BitVec.ofNat_toNat, BitVec.setWidth_eq,
      recordBytes_recordsOf bytes_tripleOf _ _ (by omega), ← len, List.take_length]
  · rintro ⟨us, few, rfl⟩
    exact payloadOk_groupPayload c few

theorem exec_setRegisterGroup {ts : List RegTriple} (few : ts.length ≤ 19) (cap : Nat) (s : State) :
    exec (.setRegisterGroup ts cap) s = assemble .setRegisterGroup (groupPayload ts) cap s :=
  if_neg (Nat.not_lt.mpr few)

/-- Settles O38: with at most 19 triples the builder is the assembly of its count and its triples' bytes. -/
theorem setRegisterGroupBuildsItsFrame : Obligations.SetRegisterGroupBuildsItsFrame := by
  intro s ts cap
  have size : (groupPayload ts).length + 4 = 3 + 3 * ts.length + 2 := by
    rw [groupPayload_length]
    omega
  refine ⟨fun P => payloadOk_setRegisterGroup_iff, fun many => if_pos many, fun few small => ?_, fun few fits => ?_⟩
  · rw [exec_setRegisterGroup few]
    exact assemble_of_small_group (payloadOk_groupPayload s.cfg few) (size ▸ small)
  · rw [exec_setRegisterGroup few, assemble_builds (payloadOk_groupPayload s.cfg few) (size ▸ fits), size, groupPayload,
      recordBytes_eq_flatten_map]
    rfl

/-! ### The two tests of a wait (R155) -/

theorem nackTest_iff {r T : Byte} : nackTest r T = true ↔ r = T := beq_iff_eq

theorem ackTest_iff {r T : Byte} : ackTest r T = true ↔ T.toNat ≤ r.toNat := by
  rw [ackTest, BitVec.ule, decide_eq_true_eq]

/-- Settles O44: the tests are equality and the order of the numbers, and 0xFF is the greatest of these. -/
theorem comparisonsAreWrapUnaware : Obligations.ComparisonsAreWrapUnaware := by
  refine fun r T => ⟨nackTest_iff, ackTest_iff, ?_⟩
  rw [ackTest_iff]
  bv_omega

/-! ### A waiter's step (R157 to R160) -/

theorem nextPhase_checkNack (s : State) (d : Bool) (T : Byte) :
    nextPhase s d ⟨T, .checkNack⟩ = if s.lastNackId = T then .done .rejected else afterNack s.cfg.waitCheckOrder := by
  simp only [nextPhase, nackTest_iff]

theorem nextPhase_checkAck (s : State) (d : Bool) (T : Byte) :
    nextPhase s d ⟨T, .checkAck⟩ =
      if T.toNat ≤ s.lastAckId.toNat then .done .success else afterAck s.cfg.waitCheckOrder := by
  simp only [nextPhase, ackTest_iff]

theorem nextPhase_decide (s : State) (d : Bool) (T : Byte) :
    nextPhase s d ⟨T, .decide⟩ = if d = true then .done .timeout else firstPhase s.cfg.waitCheckOrder := rfl

section
variable {n : Nat} {d : Bool} {w : Waiter}

/-- A waiter that reaches DONE returns its outcome. -/
theorem waiterStep_returns {o : WaitOutcome} (hw : s.waiters[n]? = some w) (hp : w.inProgress = true)
    (next : nextPhase s d w = .done o) :
    waiterStep n d s =
      { s with
        waiters := s.waiters.set n ⟨w.target, .done o⟩
        results := s.results ++ [.waited w.target o] } := by
  simp only [waiterStep, hw, if_pos hp, next]
  rfl

/-- A waiter that does not reach DONE only changes its phase. -/
theorem waiterStep_goes_on {p : WaitPhase} (hw : s.waiters[n]? = some w) (hp : w.inProgress = true)
    (next : nextPhase s d w = p) (waits : (Waiter.mk w.target p).inProgress = true) :
    waiterStep n d s = { s with waiters := s.waiters.set n ⟨w.target, p⟩ } := by
  simp only [waiterStep, hw, if_pos hp, next]
  cases p with
  | done o => cases waits
  | checkNack | checkAck | decide => rfl

/-- The result of a waiter's step is the outcome of its wait. -/
theorem waiterStep_returned {T : Byte} {o : WaitOutcome} (h : (waiterStep n d s).results = s.results ++ [.waited T o]) :
    ∃ w, s.waiters[n]? = some w ∧ w.inProgress = true ∧ w.target = T ∧ nextPhase s d w = .done o := by
  have unchanged : s.results ≠ s.results ++ [.waited T o] := by simp
  cases hw : s.waiters[n]? with
  | none => exact absurd (by simpa only [waiterStep, hw] using h) unchanged
  | some w =>
    by_cases hp : w.inProgress = true
    · cases next : nextPhase s d w with
      | done o' =>
        rw [waiterStep_returns hw hp next] at h
        obtain ⟨rfl, rfl⟩ : w.target = T ∧ o' = o := by simpa using h
        exact ⟨w, rfl, hp, rfl, next⟩
      | checkNack | checkAck | decide =>
        rw [waiterStep_goes_on hw hp next rfl] at h
        exact absurd h unchanged
    · exact absurd (by simpa only [waiterStep, hw, if_neg hp] using h) unchanged

end

/-- A waiter's test that fails leads to the next phase of its loop under the order of the tests (R160). -/
theorem afterNack_eq (c : CheckOrder) : afterNack c = if c = .nackFirst then .checkAck else .decide := by cases c <;> rfl

theorem afterAck_eq (c : CheckOrder) : afterAck c = if c = .nackFirst then .decide else .checkNack := by cases c <;> rfl

theorem firstPhase_eq (c : CheckOrder) : firstPhase c = if c = .nackFirst then .checkNack else .checkAck := by
  cases c <;> rfl

theorem ne_done_of_inProgress {T : Byte} {p : WaitPhase} (hp : (Waiter.mk T p).inProgress = true) (o : WaitOutcome) :
    p ≠ .done o := by
  rintro rfl
  cases hp

theorem afterNack_inProgress (T : Byte) (c : CheckOrder) : (Waiter.mk T (afterNack c)).inProgress = true := by
  cases c <;> rfl

theorem afterAck_inProgress (T : Byte) (c : CheckOrder) : (Waiter.mk T (afterAck c)).inProgress = true := by
  cases c <;> rfl

theorem firstPhase_inProgress (T : Byte) (c : CheckOrder) : (Waiter.mk T (firstPhase c)).inProgress = true := by
  cases c <;> rfl

/-- Settles O41: the phase after each of the three phases, and the step to it. -/
theorem waiterStepsFollowTheLoop : Obligations.WaiterStepsFollowTheLoop := by
  intro s l n T d hv hs
  rw [step_of_waiter_turn hv hs, ← afterNack_eq, ← afterAck_eq, ← firstPhase_eq]
  have nack := nextPhase_checkNack (s.setSched l) d T
  have ack := nextPhase_checkAck (s.setSched l) d T
  have draw := nextPhase_decide (s.setSched l) d T
  refine ⟨fun hw => ⟨fun nacked => ?_, fun notNacked => ?_⟩, fun hw => ⟨fun acked => ?_, fun notAcked => ?_⟩,
    fun hw => ⟨fun timesOut => ?_, fun again => ?_⟩⟩
  · rw [waiterStep_returns (s := s.setSched l) hw rfl (nack.trans (if_pos nacked))]
    rfl
  · rw [waiterStep_goes_on (s := s.setSched l) hw rfl (nack.trans (if_neg notNacked)) (afterNack_inProgress T _)]
    rfl
  · rw [waiterStep_returns (s := s.setSched l) hw rfl (ack.trans (if_pos acked))]
    rfl
  · rw [waiterStep_goes_on (s := s.setSched l) hw rfl (ack.trans (if_neg (Nat.not_le.mpr notAcked))) (afterAck_inProgress T _)]
    rfl
  · rw [waiterStep_returns (s := s.setSched l) hw rfl (draw.trans (if_pos timesOut))]
    rfl
  · rw [waiterStep_goes_on (s := s.setSched l) hw rfl (draw.trans (if_neg (by simp [again]))) (firstPhase_inProgress T _)]
    rfl

/-! ### The outcomes of a wait (R154, R157, R162) -/

/-- A waiter in progress reaches Success by the ACK test only, and Rejected by the NACK test only. -/
theorem nextPhase_done {d : Bool} {w : Waiter} {o : WaitOutcome} (hp : w.inProgress = true)
    (h : nextPhase s d w = .done o) :
    (o = .success → w.target.toNat ≤ s.lastAckId.toNat) ∧ (o = .rejected → s.lastNackId = w.target) := by
  obtain ⟨T, phase⟩ := w
  cases phase with
  | checkNack =>
    rw [nextPhase_checkNack] at h
    split at h
    · rename_i nacked
      cases h
      exact ⟨nofun, fun _ => nacked⟩
    · exact absurd h (ne_done_of_inProgress (afterNack_inProgress T _) o)
  | checkAck =>
    rw [nextPhase_checkAck] at h
    split at h
    · rename_i acked
      cases h
      exact ⟨fun _ => acked, nofun⟩
    · exact absurd h (ne_done_of_inProgress (afterAck_inProgress T _) o)
  | decide =>
    rw [nextPhase_decide] at h
    split at h
    · cases h
      exact ⟨nofun, nofun⟩
    · exact absurd h (ne_done_of_inProgress (firstPhase_inProgress T _) o)
  | done o => cases hp

/-- What a step that returns the outcome of a wait tells of the last-seen registers (R154, R155). -/
def OutcomesRestOnRegisters (s t : State) : Prop :=
  ∀ T o, t.results = s.results ++ [.waited T o] →
    (o = .success → T.toNat ≤ s.lastAckId.toNat) ∧ (o = .rejected → s.lastNackId = T) ∧
    t.lastAckId = s.lastAckId ∧ t.lastNackId = s.lastNackId

/-- No instruction returns the outcome of a wait: TXN_WAIT starts the waiter, and the waiter's own step returns it (R157). -/
theorem Effect.results_ne_waited (h : Effect s t) (T : Byte) (o : WaitOutcome) : t.results ≠ s.results ++ [.waited T o] := by
  cases h with
  | parses t h =>
    obtain ⟨-, outcome, returned⟩ := execParseStep_returns h
    simp [returned]
  | returns r hr => simpa using hr T o
  | allocates r hr => obtain rfl | ⟨F, len, rfl⟩ := hr <;> simp [advanceTxn]
  | pushes | holds | flushes | waits | inits | resets => simp [State.hold, clearSync, clearSession]

theorem waiterStep_outcomesRestOnRegisters (s : State) (n : Nat) (d : Bool) :
    OutcomesRestOnRegisters s (waiterStep n d s) := by
  intro T o h
  obtain ⟨w, -, hp, rfl, next⟩ := waiterStep_returned h
  obtain ⟨success, rejected⟩ := nextPhase_done hp next
  rw [waiterStep_frame]
  exact ⟨success, rejected, rfl, rfl⟩

/-- Settles O43: only a waiter's step returns the outcome of a wait, and it writes no register. -/
theorem waitOutcomesRestOnTheLastSeenRegisters : Obligations.WaitOutcomesRestOnTheLastSeenRegisters := by
  intro s t T o h
  refine step_block_induction (Q := OutcomesRestOnRegisters) h (fun hu => ?_) (fun u T o h => ?_)
    (fun he T o h => absurd h (he.results_ne_waited T o)) waiterStep_outcomesRestOnRegisters T o
  · rw [hu]
    exact id
  · simp at h

theorem exec_reset (h : exec .reset s = .next t) : t = (clearSession s).setTxnCtr s.cfg.txnCtrInit := by
  simp only [exec, execReset] at h
  split at h <;> cases h
  rfl

/-- The first test of a wait for 0x00 answers when both last-seen IDs are 0x00 (R162). -/
theorem nextPhase_first_of_zero (hn : s.lastNackId = 0x00) (ha : s.lastAckId = 0x00) (d : Bool) :
    nextPhase s d ⟨0x00, firstPhase s.cfg.waitCheckOrder⟩ =
      .done (if s.cfg.waitCheckOrder = .nackFirst then .rejected else .success) := by
  cases s.cfg.waitCheckOrder with
  | nackFirst => exact (nextPhase_checkNack s d 0x00).trans (if_pos hn)
  | ackFirst => exact (nextPhase_checkAck s d 0x00).trans (if_pos (by rw [ha]))

/-- With both last-seen IDs 0x00, a wait for 0x00 returns its outcome at its first turn. -/
theorem first_turn_of_zero_returns {n : Nat} {d : Bool} {l : List Turn} (turn : step s = .next t) (hv : s.cfg.valid = true)
    (hs : s.sched = .waiter n d :: l) (hw : s.waiters[n]? = some ⟨0x00, firstPhase s.cfg.waitCheckOrder⟩)
    (hn : s.lastNackId = 0x00) (ha : s.lastAckId = 0x00) :
    t.results = s.results ++
      [.waited 0x00 (if s.cfg.waitCheckOrder = .nackFirst then .rejected else .success)] := by
  rw [step_of_waiter_turn hv hs] at turn
  cases turn
  rw [waiterStep_returns (s := s.setSched l) hw (firstPhase_inProgress _ _) (nextPhase_first_of_zero (s := s.setSched l) hn ha d)]
  rfl

/-- Settles O54: RESET sets both last-seen IDs to 0x00 and keeps the waiters, the results and the configuration. -/
theorem waitForZeroAfterResetReturnsAtOnce : Obligations.WaitForZeroAfterResetReturnsAtOnce := by
  intro s t u v d l hv reset start turn
  obtain rfl := exec_reset reset
  cases start
  have returned := first_turn_of_zero_returns turn hv rfl List.getElem?_concat_length rfl rfl
  exact returned

end Sys2Proof.Machine
end

section
/-! PROOFS of the transaction family, runs: what every fair run comes to (spec/60_exceptions.md R185, spec/43_transaction.md R161)
and how the machine's own steps come to rest (R192). -/

namespace Sys2Proof.Machine

variable {s t : State}

/-! ### A turn that is taken (R185) -/

theorem step_of_turn {turn : Turn} {l : List Turn} (hv : s.cfg.valid = true) (hs : s.sched = turn :: l) :
    step s = runTurn turn (s.setSched l) := by
  simp only [step, runStep, if_pos hv, takeTurn, hs]

theorem step_of_no_turn (hv : s.cfg.valid = true) (hs : s.sched = []) :
    step s = runTurn (defaultTurn s) (afterDefault (defaultTurn s) s) := by
  simp only [step, runStep, if_pos hv, takeTurn, hs]

/-- While `SYNC_BUSY = 1` pushes hold, so no step makes the buffer longer (R112). -/
theorem step_buf_length_le (h : step s = .next t) (busy : s.syncBusy = true) : t.buf.length ≤ s.buf.length := by
  obtain kept | one | ⟨k, F, removed, -⟩ | ⟨C, -, -, -, idle, -⟩ | empty := bufferChangesOnlyAtItsEnds s t h
  · rw [kept]
  · simp [one]
  · simp [removed]
  · simp [busy] at idle
  · simp [empty]

/-- A SYNC agent's turn with `SYNC_BUSY = 1` is a parse step: it halts or removes a byte (R120). -/
theorem sync_turn_shrinks {l : List Turn} (h : step s = .next t) (hs : s.sched = .sync :: l) (busy : s.syncBusy = true)
    (busy' : t.syncBusy = true) : t.buf.length < s.buf.length := by
  have parse : execParseStep (s.setSched l) = .next t := by
    rw [← h, step_of_turn (step_cases h).1 hs]
    exact (if_pos busy).symm
  exact execParseStep_shrinks (s := s.setSched l) parse busy'

/-! ### Fair runs (R161, R185) -/

section
variable {states : Nat → State} {choices : Nat → Choice}

theorem IsRun.buf_length_le (run : IsRun states choices) {n : Nat}
    (busy : ∀ m, n ≤ m → (states m).syncBusy = true) {m m' : Nat} (hm : n ≤ m) (hm' : m ≤ m') :
    (states m').buf.length ≤ (states m).buf.length := by
  induction m', hm' using Nat.le_induction with
  | base => exact Nat.le_refl _
  | succ j hj ih => exact Nat.le_trans (step_buf_length_le (run j) (busy j (Nat.le_trans hm hj))) ih

/-- If PARSE_STEP stayed enabled for ever, the buffer would fall below any length. -/
theorem ParseFair.buf_falls (fair : ParseFair states choices) (run : IsRun states choices) {n : Nat}
    (busy : ∀ m, n ≤ m → (states m).syncBusy = true) (k : Nat) :
    ∃ m, n ≤ m ∧ (states m).buf.length + k ≤ (states n).buf.length := by
  induction k with
  | zero => exact ⟨n, Nat.le_refl n, Nat.le_refl _⟩
  | succ k ih =>
    obtain ⟨m, hm, fallen⟩ := ih
    obtain ⟨j, hj, idle | turn⟩ := fair m
    · simp [busy j (by omega)] at idle
    · have kept := run.buf_length_le busy hm hj
      have shrunk := sync_turn_shrinks (run j) (by rw [State.choose_sched, turn]) (busy j (by omega))
        (busy (j + 1) (by omega))
      rw [State.choose_buf] at shrunk
      exact ⟨j + 1, by omega, by omega⟩

theorem ParseFair.idle_again (fair : ParseFair states choices) (run : IsRun states choices) (n : Nat) :
    ∃ m, n ≤ m ∧ (states m).syncBusy = false := by
  by_contra never
  have busy : ∀ m, n ≤ m → (states m).syncBusy = true := fun m hm =>
    Bool.not_eq_false _ ▸ fun idle => never ⟨m, hm, idle⟩
  obtain ⟨m, -, fallen⟩ := fair.buf_falls run busy ((states n).buf.length + 1)
  omega

/-- A waiter that has returned stays as it is. -/
theorem IsRun.done_stays (run : IsRun states choices) {n m i : Nat} {w : Waiter} (hw : (states n).waiters[i]? = some w)
    (done : w.inProgress = false) (hm : n ≤ m) : (states m).waiters[i]? = some w := by
  induction m, hm using Nat.le_induction with
  | base => exact hw
  | succ j hj ih =>
    obtain same | ⟨waits, -⟩ := step_waiter (run j) ih
    · exact same
    · simp [done] at waits

/-- A waiter in progress keeps its target, and when it is DONE its outcome is among the results added since. -/
theorem IsRun.waiter_since (run : IsRun states choices) {n m i : Nat} {w : Waiter} (hw : (states n).waiters[i]? = some w)
    (hp : w.inProgress = true) (hm : n ≤ m) :
    ∃ p rs, (states m).waiters[i]? = some ⟨w.target, p⟩ ∧ (states m).results = (states n).results ++ rs ∧
      ∀ o, p = .done o → .waited w.target o ∈ rs := by
  induction m, hm using Nat.le_induction with
  | base => exact ⟨w.phase, [], hw, by simp, fun o done => absurd done (ne_done_of_inProgress hp o)⟩
  | succ j hj ih =>
    obtain ⟨p, rs, there, grown, returned⟩ := ih
    obtain ⟨-, new, added, -⟩ := historiesOnlyGrow _ _ (run j)
    rw [State.choose_results, grown, List.append_assoc] at added
    obtain same | ⟨-, p', there', returns⟩ := step_waiter (run j) there
    · exact ⟨p, rs ++ new, same, added, fun o done => List.mem_append_left _ (returned o done)⟩
    · refine ⟨p', rs ++ new, there', added, fun o done => List.mem_append_right _ ?_⟩
      have last := returns o done
      rw [State.choose_results, added, grown, List.append_assoc] at last
      rw [List.append_cancel_left (List.append_cancel_left last)]
      exact List.mem_singleton_self _

theorem FairRun.wait_returns (fair : FairRun states choices) {n i : Nat} {w : Waiter} (hw : (states n).waiters[i]? = some w)
    (hp : w.inProgress = true) :
    ∃ (m : Nat) (o : WaitOutcome), n < m ∧ (states m).waiters[i]? = some (Waiter.mk w.target (.done o)) ∧
      .waited w.target o ∈ (states m).results.drop (states n).results.length := by
  obtain ⟨m, o, hm, done⟩ := fair.waiters n i w hw
  obtain ⟨p, rs, there, grown, returned⟩ := fair.run.waiter_since hw hp hm
  cases done.symm.trans there
  refine ⟨m, o, Nat.lt_of_le_of_ne hm ?_, done, ?_⟩
  · rintro rfl
    rw [Option.some.inj (hw.symm.trans done)] at hp
    cases hp
  · rw [grown, List.drop_left]
    exact returned o rfl

/-- In a fair run no waiter comes to DECIDE at infinitely many points: once DONE it stays so. -/
theorem not_fairRun_of_decide_again {i : Nat}
    (again : ∀ n, ∃ (m : Nat) (T : Byte), n ≤ m ∧ (states m).waiters[i]? = some (Waiter.mk T .decide)) :
    ¬ FairRun states choices := by
  intro fair
  obtain ⟨n, T, -, decides⟩ := again 0
  obtain ⟨m, o, -, done⟩ := fair.waiters n i _ decides
  obtain ⟨j, T', hj, decides'⟩ := again m
  cases (fair.run.done_stays done rfl hj).symm.trans decides'

end

/-! ### The turns the machine takes by itself (notes/assumptions/4.md) -/

theorem step_of_busy (hv : s.cfg.valid = true) (hs : s.sched = []) (busy : s.syncBusy = true) : step s = execParseStep s := by
  have turn : defaultTurn s = .sync := if_pos busy
  rw [step_of_no_turn hv hs, turn, runTurn, afterDefault, if_pos busy]
  rfl

theorem step_of_offer {i : Instr} {q : List Instr} (hv : s.cfg.valid = true) (hs : s.sched = []) (idle : s.syncBusy = false)
    (ho : s.offered = i :: q) : step s = exec i (s.setOffered q) := by
  have turn : defaultTurn s = .host := by simp [defaultTurn, idle, ho]
  simp only [step_of_no_turn hv hs, turn, runTurn, afterDefault, ho]

/-- Some waiter in progress: there is a first one. -/
theorem first_waiter_of_waiting (h : s.waiting = true) :
    ∃ A w B, s.waiters = A ++ w :: B ∧ (∀ a ∈ A, a.inProgress = false) ∧ w.inProgress = true := by
  obtain ⟨w, found⟩ := Option.isSome_iff_exists.mp ((List.find?_isSome (p := Waiter.inProgress)).mpr (List.any_eq_true.mp h))
  obtain ⟨hp, A, B, split, before⟩ := List.find?_eq_some_iff_append.mp found
  exact ⟨A, w, B, split, by simpa using before, hp⟩

theorem step_of_first_waiter {A B : List Waiter} {w : Waiter} (hv : s.cfg.valid = true) (hs : s.sched = [])
    (idle : s.syncBusy = false) (ho : s.offered = []) (hw : s.waiters = A ++ w :: B) (before : ∀ a ∈ A, a.inProgress = false)
    (hp : w.inProgress = true) :
    step s = .next (waiterStep A.length s.freeDraw (if w.phase = .decide then s.countDraw s.freeDraw else s)) := by
  have first : s.waiters.findIdx? Waiter.inProgress = some A.length := by
    simp [hw, List.findIdx?_append, List.findIdx?_eq_none_iff.mpr before, List.findIdx?_cons, hp]
  have turn : defaultTurn s = .waiter A.length s.freeDraw := by simp [defaultTurn, idle, ho, first]
  have decides : s.decides A.length = true ↔ w.phase = .decide := by simp [State.decides, hw]
  rw [step_of_no_turn hv hs, turn]
  simp [runTurn, afterDefault, decides]

/-! ### What is left to do -/

/-- At most how many parse steps are left. -/
def State.parseWork (s : State) : Nat := if s.syncBusy then s.buf.length + 1 else 0

/-- How many turns a waiter at phase p is from its DECIDE. -/
def turnsToDecide : CheckOrder → WaitPhase → Nat
  | .nackFirst, .checkNack => 2
  | .nackFirst, .checkAck => 1
  | .ackFirst, .checkAck => 2
  | .ackFirst, .checkNack => 1
  | _, .decide => 0
  | _, .done _ => 0

/-- At most how many turns are left until a free draw is a Timeout or the first waiter in progress returns otherwise: a loop has
three turns, and as many loops go on as the patience left says (notes/assumptions/3.md). -/
def State.waitWork (s : State) : Nat :=
  3 * (Config.freePatience s.draws.timeouts - s.draws.wentOn) +
    ((s.waiters.find? Waiter.inProgress).map fun w => turnsToDecide s.cfg.waitCheckOrder w.phase).getD 0

/-- What the machine has left to do by itself, in the order in which it does it: the turns scheduled, the operations offered, the
parse steps, the waits, the turns of the first wait. Doing one may make work of the later sorts only. -/
def State.remaining (s : State) : Nat ×ₗ Nat ×ₗ Nat ×ₗ Nat ×ₗ Nat :=
  toLex (s.sched.length, toLex (s.offered.length, toLex (s.parseWork, toLex (s.waiters.countP Waiter.inProgress, s.waitWork))))

theorem remaining_lt_iff :
    t.remaining < s.remaining ↔
      t.sched.length < s.sched.length ∨ t.sched.length = s.sched.length ∧
        (t.offered.length < s.offered.length ∨ t.offered.length = s.offered.length ∧
          (t.parseWork < s.parseWork ∨ t.parseWork = s.parseWork ∧
            (t.waiters.countP Waiter.inProgress < s.waiters.countP Waiter.inProgress ∨
              t.waiters.countP Waiter.inProgress = s.waiters.countP Waiter.inProgress ∧ t.waitWork < s.waitWork))) := by
  simp only [State.remaining, Prod.Lex.toLex_lt_toLex]

theorem runTurn_sched {turn : Turn} (h : runTurn turn s = .next t) : t.sched = s.sched := by
  cases turn with
  | host =>
    simp only [runTurn] at h
    split at h
    · cases h
      rfl
    · exact (exec_cases h).queues.1
  | sync =>
    simp only [runTurn] at h
    split at h
    · exact (exec_cases h).queues.1
    · cases h
      rfl
  | waiter n d =>
    cases h
    rw [waiterStep_frame]

/-- With `SYNC_BUSY = 0` no operation holds: an instruction leaves the operations offered behind it. -/
theorem exec_offered {i : Instr} (h : exec i s = .next t) (idle : s.syncBusy = false) : t.offered = s.offered := by
  obtain ⟨k, F, inbound⟩ | only | ⟨C, rfl⟩ | ⟨T, rfl⟩ | rfl | rfl | rfl | rfl := instr_classes s.cfg i
  · exact (execParseStep_queues (receive_eq_parseStep (exec_inFrame inbound ▸ h))).2.1
  · rw [exec_sameButTxnCtr h only]
  · obtain ⟨busy, -⟩ | ⟨-, rfl⟩ := rxPush_cases h
    · simp [idle] at busy
    · rfl
  · cases h
    rfl
  · exact (execParseStep_queues h).2.1
  · cases h
    rfl
  · simp only [exec, execSessionInit] at h
    split at h <;> cases h
    rfl
  · rw [exec_reset h]
    rfl

theorem execParseStep_parseWork (h : execParseStep s = .next t) : t.parseWork < s.parseWork := by
  have busy := (execParseStep_cases h).1
  rw [State.parseWork, State.parseWork, if_pos busy]
  split
  · rename_i busy'
    exact Nat.succ_lt_succ (execParseStep_shrinks h busy')
  · exact Nat.succ_pos _

theorem turnsToDecide_le (c : CheckOrder) (p : WaitPhase) : turnsToDecide c p ≤ 2 := by
  cases c <;> cases p <;> simp [turnsToDecide]

theorem turnsToDecide_afterNack (c : CheckOrder) : turnsToDecide c (afterNack c) < turnsToDecide c .checkNack := by
  cases c <;> decide

theorem turnsToDecide_afterAck (c : CheckOrder) : turnsToDecide c (afterAck c) < turnsToDecide c .checkAck := by
  cases c <;> decide

/-- At its turn a waiter returns, begins its loop again at DECIDE, or comes a turn nearer to DECIDE. -/
theorem nextPhase_cases {d : Bool} {w : Waiter} (hp : w.inProgress = true) :
    (∃ o, nextPhase s d w = .done o) ∨
      ((Waiter.mk w.target (nextPhase s d w)).inProgress = true ∧
        (w.phase = .decide ∧ d = false ∨
          w.phase ≠ .decide ∧
            turnsToDecide s.cfg.waitCheckOrder (nextPhase s d w) < turnsToDecide s.cfg.waitCheckOrder w.phase)) := by
  obtain ⟨T, phase⟩ := w
  cases phase with
  | checkNack =>
    rw [nextPhase_checkNack]
    split
    · exact .inl ⟨_, rfl⟩
    · exact .inr ⟨afterNack_inProgress T _, .inr ⟨nofun, turnsToDecide_afterNack _⟩⟩
  | checkAck =>
    rw [nextPhase_checkAck]
    split
    · exact .inl ⟨_, rfl⟩
    · exact .inr ⟨afterAck_inProgress T _, .inr ⟨nofun, turnsToDecide_afterAck _⟩⟩
  | decide =>
    rw [nextPhase_decide]
    split
    · exact .inl ⟨_, rfl⟩
    · rename_i again
      exact .inr ⟨firstPhase_inProgress T _, .inl ⟨rfl, by simpa using again⟩⟩
  | done o => cases hp

theorem waitWork_of_first {A B : List Waiter} {w : Waiter} (hw : s.waiters = A ++ w :: B)
    (before : ∀ a ∈ A, a.inProgress = false) (hp : w.inProgress = true) :
    s.waitWork = 3 * (Config.freePatience s.draws.timeouts - s.draws.wentOn) + turnsToDecide s.cfg.waitCheckOrder w.phase := by
  have none_before : A.find? Waiter.inProgress = none := List.find?_eq_none.mpr (by simpa using before)
  simp [State.waitWork, hw, List.find?_append, none_before, List.find?_cons_of_pos hp]

theorem waiterStep_waiters_of_inProgress {n : Nat} {d : Bool} {w : Waiter} (hw : s.waiters[n]? = some w)
    (hp : w.inProgress = true) :
    (waiterStep n d s).waiters = s.waiters.set n ⟨w.target, nextPhase s d w⟩ := by
  cases next : nextPhase s d w with
  | done o => rw [waiterStep_returns hw hp next]
  | checkNack | checkAck | decide => rw [waiterStep_goes_on hw hp next rfl]

/-- A turn of the first waiter in progress ends its wait, or leaves less of it. -/
theorem first_waiter_turn_work {A B : List Waiter} {w : Waiter} (hw : s.waiters = A ++ w :: B)
    (before : ∀ a ∈ A, a.inProgress = false) (hp : w.inProgress = true)
    (ht : t = waiterStep A.length s.freeDraw (if w.phase = .decide then s.countDraw s.freeDraw else s)) :
    t.waiters.countP Waiter.inProgress < s.waiters.countP Waiter.inProgress ∨
      t.waiters.countP Waiter.inProgress = s.waiters.countP Waiter.inProgress ∧ t.waitWork < s.waitWork := by
  generalize hu : (if w.phase = .decide then s.countDraw s.freeDraw else s) = u at ht
  have cfg : u.cfg = s.cfg := by rw [← hu]; split <;> rfl
  have waiters : u.waiters = A ++ w :: B := by rw [← hu, ← hw]; split <;> rfl
  have waiters' : t.waiters = A ++ ⟨w.target, nextPhase u s.freeDraw w⟩ :: B := by
    rw [ht, waiterStep_waiters_of_inProgress (by simp [waiters]) hp]
    simp [waiters]
  have kept : t.draws = u.draws ∧ t.cfg = u.cfg := by
    rw [ht, waiterStep_frame]
    exact ⟨rfl, rfl⟩
  obtain ⟨o, returns⟩ | ⟨goesOn, nearer⟩ := nextPhase_cases (s := u) (d := s.freeDraw) hp
  · left
    simp [waiters', hw, returns, List.countP_cons_of_pos hp, Waiter.inProgress]
  · refine .inr ⟨by simp [waiters', hw, hp, goesOn], ?_⟩
    rw [waitWork_of_first waiters' before goesOn, waitWork_of_first hw before hp, kept.1, kept.2]
    obtain ⟨decides, again⟩ | ⟨tests, nearer⟩ := nearer
    · have patient : s.draws.wentOn < Config.freePatience s.draws.timeouts := by simpa [State.freeDraw] using again
      have counted : u.draws = ⟨s.draws.timeouts, s.draws.wentOn + 1⟩ := by
        rw [← hu, if_pos decides, again]
        rfl
      have loop := turnsToDecide_le u.cfg.waitCheckOrder (nextPhase u s.freeDraw w)
      simp only [counted]
      omega
    · rw [if_neg tests] at hu
      subst hu
      exact Nat.add_lt_add_left nearer _

/-- Each step of a machine that is not at rest does a part of what is left to do. -/
theorem step_remaining_lt (moving : ¬ s.AtRest) (h : step s = .next t) : t.remaining < s.remaining := by
  have hv := (step_cases h).1
  rw [remaining_lt_iff]
  cases hs : s.sched with
  | cons turn l =>
    rw [step_of_turn hv hs] at h
    left
    rw [runTurn_sched h]
    exact Nat.lt_succ_self l.length
  | nil =>
    refine .inr ?_
    cases hb : s.syncBusy with
    | true =>
      rw [step_of_busy hv hs hb] at h
      obtain ⟨sched, offered, -⟩ := execParseStep_queues h
      exact ⟨by rw [sched, hs], .inr ⟨by rw [offered], .inl (execParseStep_parseWork h)⟩⟩
    | false =>
      cases ho : s.offered with
      | cons i q =>
        rw [step_of_offer hv hs hb ho] at h
        refine ⟨by rw [(exec_cases h).queues.1, ← hs]; rfl, .inl ?_⟩
        rw [exec_offered h hb]
        exact Nat.lt_succ_self q.length
      | nil =>
        have waits : s.waiting = true := Bool.not_eq_false _ ▸ fun none => moving ⟨hb, none, ho⟩
        obtain ⟨A, w, B, hw, before, hp⟩ := first_waiter_of_waiting waits
        rw [step_of_first_waiter hv hs hb ho hw before hp] at h
        have turn := (Host.Outcome.next.inj h).symm
        have kept : t.sched = s.sched ∧ t.offered = s.offered ∧ t.parseWork = s.parseWork := by
          rw [turn, waiterStep_frame]
          by_cases decides : w.phase = .decide <;> simp [decides, State.parseWork]
        obtain ⟨sched, offered, parses⟩ := kept
        exact ⟨by rw [sched, hs], .inr ⟨by rw [offered, ho], .inr ⟨parses, first_waiter_turn_work hw before hp turn⟩⟩⟩

/-! ### Coming to rest (R192) -/

/-- The machine's own steps come to rest or stop by name. -/
def State.Ends (s : State) : Prop :=
  ∃ n, (∃ t, steps n s = .next t ∧ t.AtRest) ∨ (∃ r, steps n s = .fault r) ∨ ∃ r, steps n s = .refused r

theorem steps_succ {n : Nat} (h : step s = .next t) : steps (n + 1) s = steps n t := by
  rw [steps, h]

theorem ends_of_step (h : ∀ t, step s = .next t → t.Ends) : s.Ends := by
  cases hs : step s with
  | next t =>
    obtain ⟨n, ends⟩ := h t hs
    exact ⟨n + 1, by rwa [steps_succ hs]⟩
  | fault r => exact ⟨1, .inr (.inl ⟨r, by rw [steps, hs]⟩)⟩
  | refused r => exact ⟨1, .inr (.inr ⟨r, by rw [steps, hs]⟩)⟩

/-- By induction on what is left to do: each step does a part of it. -/
theorem State.ends (s : State) : s.Ends := by
  by_cases rest : s.AtRest
  · exact ⟨0, .inl ⟨s, rfl, rest⟩⟩
  · exact ends_of_step fun t h =>
      have nearer := step_remaining_lt rest h
      t.ends
termination_by s.remaining
decreasing_by exact nearer

theorem takeTurn_offered (s : State) : (takeTurn s).2.offered = s.offered := by
  unfold takeTurn
  split
  · rfl
  · unfold afterDefault
    split
    · split <;> rfl
    · rfl
    · rfl

/-- Where nothing is offered, no agent's turn stops the run (R180, R181). -/
theorem runTurn_of_no_offer (turn : Turn) (ho : s.offered = []) : ∃ t, runTurn turn s = .next t ∧ t.offered = [] := by
  cases turn with
  | host => exact ⟨s, by simp only [runTurn, ho], ho⟩
  | sync =>
    cases hb : s.syncBusy with
    | true =>
      obtain ⟨t, parse⟩ := execParseStep_completes hb
      exact ⟨t, (if_pos hb).trans parse, (execParseStep_queues parse).2.1.trans ho⟩
    | false => exact ⟨s, if_neg (by simp [hb]), ho⟩
  | waiter n d => exact ⟨waiterStep n d s, rfl, by rw [waiterStep_frame]; exact ho⟩

theorem steps_of_no_offer (n : Nat) (hv : s.cfg.valid = true) (ho : s.offered = []) : ∃ t, steps n s = .next t := by
  induction n generalizing s with
  | zero => exact ⟨s, rfl⟩
  | succ n ih =>
    obtain ⟨t, first, ho'⟩ := runTurn_of_no_offer (takeTurn s).1 ((takeTurn_offered s).trans ho)
    have run : step s = .next t := (if_pos hv).trans first
    rw [steps_succ run]
    exact ih (by rwa [configurationIsFixed s t run]) ho'

theorem comes_to_rest_of_no_offer (hv : s.cfg.valid = true) (ho : s.offered = []) : ∃ n t, steps n s = .next t ∧ t.AtRest := by
  obtain ⟨n, ended⟩ := s.ends
  obtain ⟨t, run⟩ := steps_of_no_offer n hv ho
  rw [run] at ended
  obtain ⟨t', same, rest⟩ | ⟨r, fault⟩ | ⟨r, refused⟩ := ended
  · exact ⟨n, t', run.trans same, rest⟩
  · cases fault
  · cases refused

/-- Settles O57: fair runs by what a step does to the buffer and to one waiter, the machine's own runs by what is left to do. -/
theorem fairRunsProgress : Obligations.FairRunsProgress :=
  ⟨fun _ _ run fair => fair.idle_again run, fun _ _ fair _ _ _ => fair.wait_returns,
    fun _ _ _ _ again => not_fairRun_of_decide_again again, State.ends, fun _ => comes_to_rest_of_no_offer⟩

end Sys2Proof.Machine
end

section
/-! PROOFS of the exceptions family: which steps fault (spec/60_exceptions.md R180), what a step runs (R185, R186) and the block at
rest (R191, R192). -/

namespace Sys2Proof.Machine

variable {s : State}

/-! ### Which instructions can fault (R180) -/

theorem assemble_ne_fault {k : OutKind} {P : List Byte} {cap : Nat} {r : Fault} : assemble k P cap s ≠ .fault r := by
  unfold assemble
  split
  · nofun
  · split
    · nofun
    · split <;> nofun

/-- An outbound kind is the assembly of its payload, or a register group of too many triples, which is refused (R163 to R169). -/
theorem exec_of_outPayload {i : Instr} {k : OutKind} {P : List Byte} (hi : i.outPayload = some (k, P)) (s : State) :
    (∃ cap, exec i s = assemble k P cap s) ∨ exec i s = .refused .payloadShape := by
  cases i <;> cases hi
  case setRegisterGroup ts cap =>
    by_cases many : groupMax < ts.length
    · exact .inr (if_pos many)
    · exact .inl ⟨cap, if_neg many⟩
  all_goals exact .inl ⟨_, rfl⟩

theorem exec_onlyReturns_ne_fault {i : Instr} (hi : OnlyReturns i) {r : Fault} : exec i s ≠ .fault r := by
  obtain ⟨B, n, rfl⟩ | ⟨B, n, cap, rfl⟩ | ⟨B, n, rfl⟩ | rfl := hi
  · rw [exec_crcCompute]
    split <;> nofun
  · rw [exec_crcAppend]
    split <;> nofun
  · rw [exec_crcCheck]
    split <;> nofun
  · nofun

theorem exec_rxPush_ne_fault {C : List Byte} {r : Fault} : exec (.rxPush C) s ≠ .fault r := by
  cases hb : s.syncBusy with
  | true =>
    rw [rxPush_holds hb]
    nofun
  | false =>
    rw [rxPush_idle hb]
    split
    · nofun
    · split <;> nofun

/-- Only a parse step and an inbound frame can fault: every other instruction goes on or is refused (R180, R181). -/
theorem parseStep_or_inFrame_of_exec_fault {i : Instr} {r : Fault} (h : exec i s = .fault r) :
    i = .parseStep ∨ (i.inFrame s.cfg).isSome = true := by
  obtain ⟨k, F, inbound⟩ | (returns | rfl | ⟨k, P, cap, rfl⟩ | outbound) | ⟨C, rfl⟩ | ⟨T, rfl⟩ | rfl | rfl | rfl | rfl :=
    instr_classes s.cfg i
  · exact .inr (Option.isSome_of_eq_some inbound)
  · exact absurd h (exec_onlyReturns_ne_fault returns)
  · cases h
  · cases k with
    | inbound k => cases h
    | outbound k => exact absurd h assemble_ne_fault
  · obtain ⟨⟨k, P⟩, payload⟩ := Option.isSome_iff_exists.mp outbound
    obtain ⟨cap, builds⟩ | refused := exec_of_outPayload payload s
    · exact absurd (builds ▸ h) assemble_ne_fault
    · cases refused.symm.trans h
  · exact absurd h exec_rxPush_ne_fault
  · cases h
  · exact .inl rfl
  · cases h
  · simp only [exec, execSessionInit] at h
    split at h <;> cases h
  · simp only [exec, execReset] at h
    split at h <;> cases h

/-! ### Which turns can fault -/

/-- A turn faults only if it is the host's and runs an offered parse step or frame: the SYNC agent parses only while PARSE_STEP is
enabled, and a waiter always has its step (R113, R120). -/
theorem offered_of_runTurn_fault {turn : Turn} {r : Fault} (h : runTurn turn s = .fault r) :
    ∃ i q, s.offered = i :: q ∧ (i = .parseStep ∨ (i.inFrame s.cfg).isSome = true) := by
  cases turn with
  | host =>
    simp only [runTurn] at h
    split at h
    · cases h
    · rename_i i q offer
      exact ⟨i, q, offer, parseStep_or_inFrame_of_exec_fault (s := s.setOffered q) h⟩
  | sync =>
    simp only [runTurn] at h
    split at h
    · rename_i busy
      obtain ⟨t, completes⟩ := execParseStep_completes busy
      cases completes.symm.trans h
    · cases h
  | waiter n d => cases h

/-- Settles O55: the turn that faults runs an offered operation, and taking the turn changes neither the offers nor the
configuration. -/
theorem stepFaultsOnlyOnOfferedFrames : Obligations.StepFaultsOnlyOnOfferedFrames := by
  intro s r h
  unfold step runStep at h
  split at h
  · have offered := offered_of_runTurn_fault h
    obtain ⟨-, -, -, -, -, -, -, -, -, cfg⟩ := (takeTurn_sameBlock s).fields
    rwa [takeTurn_offered, cfg] at offered
  · cases h

/-! ### What a step runs (R185, R186) -/

/-- The instruction read from a complete window has that window as its frame (R65 to R70). -/
theorem inFrame_of_complete {c : Config} {B : List Byte} {k : InKind} (window : front c B = .complete k) :
    (inboundFields k (B.take (inboundSize k))).inFrame c = some (k, B.take (inboundSize k)) := by
  obtain ⟨⟨b, head, kind⟩, size⟩ := front_complete_iff.mp window
  refine inFrame_inboundFields (List.length_take_of_le size) ?_
  rw [byteAt_take (by have := inboundSize_pos k; omega), byteAt_zero_of_head? head, Config.kindOf_some kind]

/-- While `SYNC_BUSY = 1` the frame decoded at the front runs as PARSE_STEP does (R21, R113). -/
theorem exec_decoded {d : Decoded} (busy : s.syncBusy = true) (hd : decodeInbound s.cfg s.buf = .ok d) :
    exec d.instr s = exec .parseStep s := by
  obtain ⟨k, window, rfl⟩ := decodeInbound_ok hd
  have whole : s.buf = s.buf.take (inboundSize k) ++ s.buf.drop (inboundSize k) := (List.take_append_drop _ _).symm
  have frame := inFrame_of_complete window
  calc exec (inboundFields k (s.buf.take (inboundSize k))) s
    _ = receive k (s.buf.take (inboundSize k)) s := exec_inFrame frame
    _ = .next (finishFrame k (s.buf.take (inboundSize k)) s) :=
        receive_window busy whole (inFrame_length frame) (whole ▸ window)
    _ = exec .parseStep s := (execParseStep_of_complete busy window).symm

theorem step_of_sync_turn {l : List Turn} (hv : s.cfg.valid = true) (hs : s.sched = .sync :: l) (busy : s.syncBusy = true) :
    step s = exec .parseStep (s.setSched l) :=
  (step_of_turn hv hs).trans (if_pos busy)

/-- A SYNC agent's turn with no parse to do passes (R191). -/
theorem runTurn_sync_idle (idle : s.syncBusy = false) : runTurn .sync s = .next s :=
  if_neg (by simp [idle])

theorem runTurn_host_of_offer {i : Instr} {q : List Instr} (ho : s.offered = i :: q) :
    runTurn .host s = exec i (s.setOffered q) := by
  simp only [runTurn, ho]

/-- A host's turn with nothing offered passes (R191). -/
theorem runTurn_host_of_no_offer (ho : s.offered = []) : runTurn .host s = .next s := by
  simp only [runTurn, ho]

theorem defaultTurn_of_waiter {n : Nat} (idle : s.syncBusy = false) (ho : s.offered = [])
    (first : s.waiters.findIdx? Waiter.inProgress = some n) : defaultTurn s = .waiter n s.freeDraw := by
  simp [defaultTurn, idle, ho, first]

/-- Settles O24: each agent's turn by the lemma that says what it runs; a decoded frame runs as the parse step. -/
theorem stepRunsTheDecodedInstruction : Obligations.StepRunsTheDecodedInstruction := by
  intro s hv
  refine ⟨fun d l hs busy hd => ?_, fun d hs busy hd => ?_, fun i q l hs ho => ?_, fun i q => step_of_offer hv,
    fun n d l hs => step_of_turn hv hs, fun l => step_of_sync_turn hv, step_of_busy hv, fun l hs idle => ?_,
    fun l hs ho => ?_, fun n hs idle ho first => ?_⟩
  · rw [step_of_sync_turn hv hs busy]
    exact (exec_decoded (s := s.setSched l) busy hd).symm
  · rw [exec_decoded busy hd]
    exact step_of_busy hv hs busy
  · exact (step_of_turn hv hs).trans (runTurn_host_of_offer (s := s.setSched l) ho)
  · exact (step_of_turn hv hs).trans (runTurn_sync_idle (s := s.setSched l) idle)
  · exact (step_of_turn hv hs).trans (runTurn_host_of_no_offer (s := s.setSched l) ho)
  · rw [step_of_no_turn hv hs, defaultTurn_of_waiter idle ho first]
    rfl

/-! ### At rest (R191, R192) -/

/-- At rest the turn falls to the SYNC agent, which has nothing to parse (notes/assumptions/4.md). -/
theorem State.AtRest.defaultTurn (rest : s.AtRest) : defaultTurn s = .sync := by
  obtain ⟨idle, returned, nothing⟩ := rest
  have none_left : s.waiters.findIdx? Waiter.inProgress = none :=
    List.findIdx?_eq_none_iff.mpr (by simpa [State.waiting] using returned)
  simp [Machine.defaultTurn, idle, nothing, none_left]

/-- Settles O56: the SYNC agent's turn passes. -/
theorem idleBlockKeepsItsState : Obligations.IdleBlockKeepsItsState := by
  intro s hv rest hs
  rw [step_of_no_turn hv hs, rest.defaultTurn]
  exact runTurn_sync_idle rest.1

end Sys2Proof.Machine
end

section
/-! PROOFS of the reset family: what SESSION_INIT and RESET clear, when they are refused, and the state after reset
(spec/70_reset_and_hazards.md R200, R201, R202). -/

namespace Sys2Proof.Machine

variable {s : State}

/-! ### When a waiter is in progress (R29) -/

theorem Waiter.inProgress_iff {w : Waiter} : w.inProgress = true ↔ ∀ o, w.phase ≠ .done o := by
  obtain ⟨T, p⟩ := w
  cases p with
  | done o => exact ⟨nofun, fun waits => absurd rfl (waits o)⟩
  | checkNack | checkAck | decide => exact ⟨nofun, fun _ => rfl⟩

theorem State.waiting_iff : s.waiting = true ↔ ∃ w ∈ s.waiters, ∀ o, w.phase ≠ .done o := by
  simp only [State.waiting, List.any_eq_true, Waiter.inProgress_iff]

theorem State.not_waiting_iff : ¬ s.waiting = true ↔ ∀ w ∈ s.waiters, ∃ o, w.phase = .done o := by
  rw [State.waiting_iff]
  push Not
  rfl

/-! ### The two operations and the reset state -/

/-- The precondition R200 and R201 share: the step is taken once every waiter has returned, and refused before. -/
theorem next_or_resetWhileActive (s t : State) :
    ((∀ w ∈ s.waiters, ∃ o, w.phase = .done o) →
      (if s.waiting then .refused .resetWhileActive else .next t : Outcome) = .next t) ∧
    ((∃ w ∈ s.waiters, ∀ o, w.phase ≠ .done o) →
      (if s.waiting then .refused .resetWhileActive else .next t : Outcome) = .refused .resetWhileActive) :=
  ⟨fun returned => if_neg (State.not_waiting_iff.mpr returned), fun waits => if_pos (State.waiting_iff.mpr waits)⟩

/-- Settles O51: behind the precondition, the session's assignments are `clearSession`'s. -/
theorem sessionInitClearsTheSession : Obligations.SessionInitClearsTheSession :=
  fun s => next_or_resetWhileActive s (clearSession s)

/-- Settles O52: behind the same precondition, the counter is written beside the session's assignments. -/
theorem resetClearsTheBlock : Obligations.ResetClearsTheBlock :=
  fun s => next_or_resetWhileActive s ((clearSession s).setTxnCtr s.cfg.txnCtrInit)

/-- Settles O53: each field of `State.resetOf` is the one R202 lists. -/
theorem stateAfterReset : Obligations.StateAfterReset := fun _ =>
  ⟨rfl, rfl, rfl, rfl, rfl, rfl, rfl, rfl⟩

end Sys2Proof.Machine
end
